-- ==== Sys2Proof/Word.lean ====
section
/-! DEFINITION. The word types of the core: XLEN is 32 (rule R11), a register index is a 5-bit field (rule R21),
memory is bytes (rule R43). The arithmetic on them is the bit vectors' own: modulo 2^32 (rule R13). -/

namespace Sys2Proof

/-- A u32: register contents, CSR words, addresses, the pc (rules R11, R13). -/
abbrev Word := BitVec 32

/-- One byte of the buffer (rule R43). -/
abbrev Byte := BitVec 8

/-- A halfword, the value of `LH`, `LHU`, `SH` (rule R64). -/
abbrev Half := BitVec 16

/-- The 64-bit views CYCLE, TIMER and MATCH, and 64-bit products (rules R15, R262). -/
abbrev Dword := BitVec 64

/-- The 5-bit index by which an instruction names a general register (rule R21). -/
abbrev RegIdx := BitVec 5

end Sys2Proof
end

