-- ==== Sys2Proof/Config.lean ====
section
/-! DEFINITION. What is fixed for one machine and not by the spec: the seven parameters of rule R12, and the free
value the model takes where the host has fixed no `elapsed` (log 3). -/

namespace Sys2Proof.Config

/-- The parameters the spec names and leaves to the model (rule R12). A machine carries them unchanged in
`State.params`, so a statement about every state holds for every value of them (log 1). -/
structure Params where
  /-- `MEM_BASE`: "the address at which byte 0 of the buffer is mapped". -/
  memBase : Word
  /-- `MEM_LEN`: the buffer's length in bytes. -/
  memLen : Word
  /-- `ENTRY_PC`: the pc after construction. -/
  entryPc : Word
  /-- `MISA_VALUE`: what CSR 0x301 reads (rule R41). -/
  misaValue : Word
  /-- `MVENDORID_VALUE`: what CSR 0xF11 reads (rule R41). -/
  mvendoridValue : Word
  /-- `CYCLE_ON_EARLY_EXIT`: whether CYCLE counts a `WFI` and a shutdown store (rule R37, conflict C4). -/
  cycleOnEarlyExit : Bool
  /-- `STORE_BREAKS_RESERVATION`: whether a write to the reserved word makes a later `SC.W` fail (rule R316). -/
  storeBreaksReservation : Bool
  deriving DecidableEq, Repr

/-- The constraints of rule R12 and decision D4 on the buffer's place. A buffer that covers a memory-mapped address is
not excluded: rule R70 says what happens then. -/
def Params.wf (p : Params) : Bool :=
  p.memBase.toNat % 4 == 0 && p.memLen.toNat % 4 == 0 && decide (4 ≤ p.memLen.toNat)
    && decide (p.memBase.toNat + p.memLen.toNat ≤ 2 ^ 32)

/-- The values of the state right after reset. PRESUMED (the customary and lineage values rule R12 names) for
`MEM_BASE`, `ENTRY_PC`, `MISA_VALUE`, `MVENDORID_VALUE`; DESIGN CHOICE (the values of the spec's own examples) for
`MEM_LEN` and `CYCLE_ON_EARLY_EXIT`; rule R12's `false` for `STORE_BREAKS_RESERVATION`. Unsafe: log 2. -/
def Params.customary : Params where
  memBase := 0x80000000#32
  memLen := 0x1000#32
  entryPc := 0x80000000#32
  misaValue := 0x40401101#32
  mvendoridValue := 0xFF0FF0FF#32
  cycleOnEarlyExit := true
  storeBreaksReservation := false

/-- FREE VALUE (log 3, safe): the `elapsed` argument of a step for which `State.elapsedQueue` holds none, the n-th such
step of the machine. The host chooses `elapsed` freely at each call (rules R8, R9; U10), so nothing constrains it. -/
opaque freeElapsed : Nat → Word

end Sys2Proof.Config
end

