-- ==== Sys2Proof/Syntax.lean ====
section
/-! DEFINITION. The instructions, one constructor per row of spec/opcode_table.json, in the table's order. The operands
are the fields the row's rule names, in the assembler's order (rule R124); offsets and immediates are the encoded fields
before sign extension. Fields the core does not examine (rule R120) are no operands; of these only the ordering bits of
atomics and the sets of `FENCE`, which the assembler writes, are kept. -/

namespace Sys2Proof

/-- One decoded instruction (rule R119). -/
inductive Instr where
  /-- `LUI rd, imm20` (rule R160). -/
  | lui (rd : RegIdx) (imm : BitVec 20)
  /-- `AUIPC rd, imm20` (rule R161). -/
  | auipc (rd : RegIdx) (imm : BitVec 20)
  /-- `JAL rd, offset` (rule R170); the offset is even. -/
  | jal (rd : RegIdx) (offset : BitVec 21)
  /-- `JALR rd, offset(rs1)` (rule R171). -/
  | jalr (rd rs1 : RegIdx) (imm : BitVec 12)
  /-- `BEQ rs1, rs2, offset` (rule R173); the offset is even, for all six branches. -/
  | beq (rs1 rs2 : RegIdx) (offset : BitVec 13)
  /-- `BNE rs1, rs2, offset` (rule R174). -/
  | bne (rs1 rs2 : RegIdx) (offset : BitVec 13)
  /-- `BLT rs1, rs2, offset` (rule R175). -/
  | blt (rs1 rs2 : RegIdx) (offset : BitVec 13)
  /-- `BGE rs1, rs2, offset` (rule R176). -/
  | bge (rs1 rs2 : RegIdx) (offset : BitVec 13)
  /-- `BLTU rs1, rs2, offset` (rule R177). -/
  | bltu (rs1 rs2 : RegIdx) (offset : BitVec 13)
  /-- `BGEU rs1, rs2, offset` (rule R178). -/
  | bgeu (rs1 rs2 : RegIdx) (offset : BitVec 13)
  /-- `LB rd, offset(rs1)` (rule R191). -/
  | lb (rd rs1 : RegIdx) (imm : BitVec 12)
  /-- `LH rd, offset(rs1)` (rule R192). -/
  | lh (rd rs1 : RegIdx) (imm : BitVec 12)
  /-- `LW rd, offset(rs1)` (rule R193). -/
  | lw (rd rs1 : RegIdx) (imm : BitVec 12)
  /-- `LBU rd, offset(rs1)` (rule R194). -/
  | lbu (rd rs1 : RegIdx) (imm : BitVec 12)
  /-- `LHU rd, offset(rs1)` (rule R195). -/
  | lhu (rd rs1 : RegIdx) (imm : BitVec 12)
  /-- `SB rs2, offset(rs1)` (rule R201). -/
  | sb (rs2 rs1 : RegIdx) (imm : BitVec 12)
  /-- `SH rs2, offset(rs1)` (rule R202). -/
  | sh (rs2 rs1 : RegIdx) (imm : BitVec 12)
  /-- `SW rs2, offset(rs1)` (rule R203). -/
  | sw (rs2 rs1 : RegIdx) (imm : BitVec 12)
  /-- `ADDI rd, rs1, imm` (rule R221). -/
  | addi (rd rs1 : RegIdx) (imm : BitVec 12)
  /-- `SLTI rd, rs1, imm` (rule R222). -/
  | slti (rd rs1 : RegIdx) (imm : BitVec 12)
  /-- `SLTIU rd, rs1, imm` (rule R223). -/
  | sltiu (rd rs1 : RegIdx) (imm : BitVec 12)
  /-- `XORI rd, rs1, imm` (rule R224). -/
  | xori (rd rs1 : RegIdx) (imm : BitVec 12)
  /-- `ORI rd, rs1, imm` (rule R225). -/
  | ori (rd rs1 : RegIdx) (imm : BitVec 12)
  /-- `ANDI rd, rs1, imm` (rule R226). -/
  | andi (rd rs1 : RegIdx) (imm : BitVec 12)
  /-- `SLLI rd, rs1, shamt` (rule R227). -/
  | slli (rd rs1 : RegIdx) (shamt : BitVec 5)
  /-- `SRLI rd, rs1, shamt` (rule R228). -/
  | srli (rd rs1 : RegIdx) (shamt : BitVec 5)
  /-- `SRAI rd, rs1, shamt` (rule R229). -/
  | srai (rd rs1 : RegIdx) (shamt : BitVec 5)
  /-- `ADD rd, rs1, rs2` (rule R231). -/
  | add (rd rs1 rs2 : RegIdx)
  /-- `SUB rd, rs1, rs2` (rule R232). -/
  | sub (rd rs1 rs2 : RegIdx)
  /-- `SLL rd, rs1, rs2` (rule R233). -/
  | sll (rd rs1 rs2 : RegIdx)
  /-- `SLT rd, rs1, rs2` (rule R234). -/
  | slt (rd rs1 rs2 : RegIdx)
  /-- `SLTU rd, rs1, rs2` (rule R235). -/
  | sltu (rd rs1 rs2 : RegIdx)
  /-- `XOR rd, rs1, rs2` (rule R236). -/
  | xor (rd rs1 rs2 : RegIdx)
  /-- `SRL rd, rs1, rs2` (rule R237). -/
  | srl (rd rs1 rs2 : RegIdx)
  /-- `SRA rd, rs1, rs2` (rule R238). -/
  | sra (rd rs1 rs2 : RegIdx)
  /-- `OR rd, rs1, rs2` (rule R239). -/
  | or (rd rs1 rs2 : RegIdx)
  /-- `AND rd, rs1, rs2` (rule R240). -/
  | and (rd rs1 rs2 : RegIdx)
  /-- `MUL rd, rs1, rs2` (rule R261). -/
  | mul (rd rs1 rs2 : RegIdx)
  /-- `MULH rd, rs1, rs2` (rule R262). -/
  | mulh (rd rs1 rs2 : RegIdx)
  /-- `MULHSU rd, rs1, rs2` (rule R263). -/
  | mulhsu (rd rs1 rs2 : RegIdx)
  /-- `MULHU rd, rs1, rs2` (rule R264). -/
  | mulhu (rd rs1 rs2 : RegIdx)
  /-- `DIV rd, rs1, rs2` (rule R265). -/
  | div (rd rs1 rs2 : RegIdx)
  /-- `DIVU rd, rs1, rs2` (rule R266). -/
  | divu (rd rs1 rs2 : RegIdx)
  /-- `REM rd, rs1, rs2` (rule R267). -/
  | rem (rd rs1 rs2 : RegIdx)
  /-- `REMU rd, rs1, rs2` (rule R268). -/
  | remu (rd rs1 rs2 : RegIdx)
  /-- `FENCE pred, succ` with its `fm` field (rule R280). -/
  | fence (fm pred succ : BitVec 4)
  /-- `FENCE.I` (rule R281). -/
  | fenceI
  /-- `CSRRW rd, csr, rs1` (rule R287). -/
  | csrrw (rd : RegIdx) (csr : BitVec 12) (rs1 : RegIdx)
  /-- `CSRRS rd, csr, rs1` (rule R288). -/
  | csrrs (rd : RegIdx) (csr : BitVec 12) (rs1 : RegIdx)
  /-- `CSRRC rd, csr, rs1` (rule R289). -/
  | csrrc (rd : RegIdx) (csr : BitVec 12) (rs1 : RegIdx)
  /-- `CSRRWI rd, csr, uimm` (rule R290). -/
  | csrrwi (rd : RegIdx) (csr : BitVec 12) (uimm : BitVec 5)
  /-- `CSRRSI rd, csr, uimm` (rule R291). -/
  | csrrsi (rd : RegIdx) (csr : BitVec 12) (uimm : BitVec 5)
  /-- `CSRRCI rd, csr, uimm` (rule R292). -/
  | csrrci (rd : RegIdx) (csr : BitVec 12) (uimm : BitVec 5)
  /-- `ECALL` (rule R294). -/
  | ecall
  /-- `EBREAK` (rule R295). -/
  | ebreak
  /-- `WFI` (rule R296). -/
  | wfi
  /-- `MRET` (rule R297). -/
  | mret
  /-- `LR.W rd, (rs1)` (rule R311). -/
  | lrW (rd rs1 : RegIdx) (aq rl : BitVec 1)
  /-- `SC.W rd, rs2, (rs1)` (rule R312). -/
  | scW (rd rs2 rs1 : RegIdx) (aq rl : BitVec 1)
  /-- `AMOSWAP.W rd, rs2, (rs1)` (rule R317). -/
  | amoswapW (rd rs2 rs1 : RegIdx) (aq rl : BitVec 1)
  /-- `AMOADD.W rd, rs2, (rs1)` (rule R318). -/
  | amoaddW (rd rs2 rs1 : RegIdx) (aq rl : BitVec 1)
  /-- `AMOXOR.W rd, rs2, (rs1)` (rule R319). -/
  | amoxorW (rd rs2 rs1 : RegIdx) (aq rl : BitVec 1)
  /-- `AMOAND.W rd, rs2, (rs1)` (rule R320). -/
  | amoandW (rd rs2 rs1 : RegIdx) (aq rl : BitVec 1)
  /-- `AMOOR.W rd, rs2, (rs1)` (rule R321). -/
  | amoorW (rd rs2 rs1 : RegIdx) (aq rl : BitVec 1)
  /-- `AMOMIN.W rd, rs2, (rs1)` (rule R322). -/
  | amominW (rd rs2 rs1 : RegIdx) (aq rl : BitVec 1)
  /-- `AMOMAX.W rd, rs2, (rs1)` (rule R323). -/
  | amomaxW (rd rs2 rs1 : RegIdx) (aq rl : BitVec 1)
  /-- `AMOMINU.W rd, rs2, (rs1)` (rule R324). -/
  | amominuW (rd rs2 rs1 : RegIdx) (aq rl : BitVec 1)
  /-- `AMOMAXU.W rd, rs2, (rs1)` (rule R325). -/
  | amomaxuW (rd rs2 rs1 : RegIdx) (aq rl : BitVec 1)
  /-- `FENCE.OTHER`: the fence opcode with another `funct3` (rule R282). -/
  | fenceOther (funct3 : BitVec 3)
  /-- `LOAD.RSV`: the load opcode with an undefined `funct3` (rule R196). -/
  | loadRsv (rd rs1 : RegIdx) (imm : BitVec 12) (funct3 : BitVec 3)
  /-- `STORE.RSV`: the store opcode with an undefined `funct3` (rule R204). -/
  | storeRsv (rs2 rs1 : RegIdx) (imm : BitVec 12) (funct3 : BitVec 3)
  /-- `AMO.RSV`: the atomic opcode with an undefined `funct5` (rule R326). -/
  | amoRsv (rs1 : RegIdx) (funct5 : BitVec 5)
  /-- `ILLEGAL`: any word that matches no other row (rule R147); `word` is that word. -/
  | illegal (word : Word)
  deriving DecidableEq, Repr

end Sys2Proof
end

