-- ==== Sys2Proof/Machine/State.lean ====
section
/-! DEFINITION. The state of the core, its reset value, and the reasons a step can stop. State is plain data and holds
everything rules R20 to R46 give the machine; INVENTORY.md lists it. -/

namespace Sys2Proof.Machine

/-- The buffer's bytes as address and byte pairs; `Memory.wf` (Machine/Ops.lean) is their canonical form. The key is the
byte's absolute address. An address that is not listed reads as 0 (log 5). -/
abbrev Memory := List Host.Cell

/-- The outcome of a step (rules R8, R150), in the tagged form (conflict C5, decision D26). -/
inductive StepOutcome where
  /-- `Continue`: "normal completion". -/
  | continued
  /-- `Sleeping`: "hart is parked; no instruction executed this call", and the outcome of `WFI`. -/
  | sleeping
  /-- `Shutdown(code)`: the store to 0x11100000 was executed with value `code` (rule R207). -/
  | shutdown (code : Word)
  deriving DecidableEq, Repr

/-- The whole state (rules R20 to R46, R8, R12). -/
structure State where
  /-- The machine's parameters (rule R12); no step changes them (log 1). -/
  params : Config.Params
  /-- x[0] to x[31] (rule R20); slot 0 is never read and never written (log 12). -/
  regs : Vector Word 32
  /-- The program counter (rules R23, R24). -/
  pc : Word
  /-- Machine status, CSR 0x300 (rule R28). -/
  mstatus : Word
  /-- Low half of CYCLE, CSR 0xC00 (rule R37). -/
  cyclel : Word
  /-- High half of CYCLE (rule R37). -/
  cycleh : Word
  /-- Low half of TIMER, loaded from 0x1100bff8 (rule R38). -/
  timerl : Word
  /-- High half of TIMER, loaded from 0x1100bffc (rule R38). -/
  timerh : Word
  /-- Low half of MATCH, stored to 0x11004000 (rule R39). -/
  timermatchl : Word
  /-- High half of MATCH, stored to 0x11004004 (rule R39). -/
  timermatchh : Word
  /-- CSR 0x340 (rule R33). -/
  mscratch : Word
  /-- Trap vector, CSR 0x305 (rule R32). -/
  mtvec : Word
  /-- Interrupt enable, CSR 0x304 (rule R29). -/
  mie : Word
  /-- Interrupt pending, CSR 0x344 (rule R30). -/
  mip : Word
  /-- Exception pc, CSR 0x341 (rule R34). -/
  mepc : Word
  /-- Trap value, CSR 0x343 (rule R36). -/
  mtval : Word
  /-- Trap cause, CSR 0x342 (rule R35). -/
  mcause : Word
  /-- PRIV, `extraflags[1:0]` (rules R40, R360). -/
  priv : BitVec 2
  /-- SLEEP, `extraflags[2]` (rules R40, R343). -/
  sleep : Bool
  /-- RES, `extraflags[31:3]` (rules R40, R314). -/
  res : BitVec 29
  /-- The validity flag rule R316 asks for when `STORE_BREAKS_RESERVATION` is true; unused when it is false (log 9). -/
  resBroken : Bool
  /-- The buffer's bytes (rule R43). -/
  mem : Memory
  /-- The outcome of the last step (rules R8, R150; log 4). -/
  outcome : StepOutcome
  /-- The `elapsed` arguments the host has fixed for the coming steps, oldest first (rules R8, R9; log 3). -/
  elapsedQueue : List Word
  /-- How many steps have taken a free value for `elapsed` (log 3). -/
  elapsedDraws : Nat
  deriving DecidableEq, Repr

/-- `extraflags` as one word (rule R40): RES, SLEEP and PRIV in bits 31:3, 2 and 1:0 (log 11). -/
def State.extraflags (s : State) : Word := (s.res ++ BitVec.ofBool s.sleep ++ s.priv).cast rfl

/-- Faults: none. "All fault conditions are modeled as **traps**": a step takes the exception and goes on, and "there is no
outcome for error" (rule R150), so this type has no constructor (log 10). -/
inductive Fault where
  deriving DecidableEq, Repr

/-- Why a step has no next state in the model. -/
inductive Refusal where
  /-- Raised by an arm of `exec` that gives its instruction no meaning yet; no arm does. Safe. -/
  | notModelled (mnemonic : String)
  /-- Raised by the step, before anything else, in a state whose parameters break the constraints of rule R12 and
  decision D4, which the spec refuses (U2). No step changes the parameters and those of reset meet the constraints. Safe
  (log 1). -/
  | parametersOutsideConstraints
  deriving DecidableEq, Repr

/-- The state right after construction (rules R400, R45), for the parameters of `Config.Params.customary` (log 2), a buffer
of which nothing is listed (log 5), and a host that has fixed no `elapsed` (log 3). Registers and pc are the
document's, every other value is decision D17 (log 6). -/
def State.reset : State where
  params := Config.Params.customary
  regs := Vector.replicate 32 0#32
  pc := Config.Params.customary.entryPc
  mstatus := 0#32
  cyclel := 0#32
  cycleh := 0#32
  timerl := 0#32
  timerh := 0#32
  timermatchl := 0#32
  timermatchh := 0#32
  mscratch := 0#32
  mtvec := 0#32
  mie := 0#32
  mip := 0#32
  mepc := 0#32
  mtval := 0#32
  mcause := 0#32
  priv := 3#2
  sleep := false
  res := 0#29
  resBroken := false
  mem := []
  outcome := .continued
  elapsedQueue := []
  elapsedDraws := 0

end Sys2Proof.Machine
end

