-- ==== Sys2Proof/Machine/Flags.lean ====
section
/-! DEFINITION. Status fields. The core has no condition codes (rule R25); its flags are the fields of `mstatus`, `mie` and
`mip` that have a function (rules R28 to R30, decision D7), and the values trap entry and `MRET` write into `mstatus`
(rules R350, R297). -/

namespace Sys2Proof.Machine

/-- MIE, `mstatus[3]` (rule R28). -/
def mieBit (mstatus : Word) : Bool := mstatus.getLsbD 3

/-- MPIE, `mstatus[7]` (rule R28). -/
def mpieBit (mstatus : Word) : Bool := mstatus.getLsbD 7

/-- MPP, `mstatus[12:11]` (rule R28). -/
def mppField (mstatus : Word) : BitVec 2 := mstatus.extractLsb' 11 2

/-- MTIE, `mie[7]` (rule R29). -/
def mtieBit (mie : Word) : Bool := mie.getLsbD 7

/-- MTIP, `mip[7]` (rule R30). -/
def mtipBit (mip : Word) : Bool := mip.getLsbD 7

/-- A bit as a word, for the whole-word writes of rules R350 and R297. -/
def bitWord (b : Bool) : Word := (BitVec.ofBool b).setWidth 32

/-- `mstatus` after trap entry: `(mstatus[3] << 7) | (PRIV << 11)`, every other bit 0 (rule R350, decision D8). -/
def trapStatus (mstatus : Word) (priv : BitVec 2) : Word :=
  (bitWord (mieBit mstatus) <<< 7) ||| (priv.setWidth 32 <<< 11)

/-- `mstatus` after `MRET`: `(s[7] << 3) | (p << 11) | 0x80` (rule R297, decision D10). -/
def mretStatus (mstatus : Word) (priv : BitVec 2) : Word :=
  (bitWord (mpieBit mstatus) <<< 3) ||| (priv.setWidth 32 <<< 11) ||| 0x80#32

/-- `mstatus` after `WFI`: bit 3 set, the other 31 bits unchanged (rule R296). -/
def wfiStatus (mstatus : Word) : Word := mstatus ||| 0x8#32

/-- `mip` with bit 7 recomputed and the other 31 bits unchanged (rule R342). -/
def mipWithTimer (mip : Word) (pending : Bool) : Word :=
  if pending then mip ||| 0x80#32 else mip &&& ~~~(0x80#32)

end Sys2Proof.Machine
end

