-- ==== Sys2Proof/Machine/Ops.lean ====
section
/-! DEFINITION. The named operations over memory, registers, counters and traps that every meaning is written with: byte
order, register 0, the range tests, the reservation, how an instruction ends, trap entry and trap return. -/

namespace Sys2Proof.Machine

/-- What a meaning and a step answer. -/
abbrev Result := Host.Outcome State Fault Refusal

/-! ## Memory as a list of cells -/

/-- The byte at an address; an address that is not listed reads as 0 (log 5). -/
def Memory.read : Memory → Nat → Byte
  | [], _ => 0#8
  | (k, b) :: rest, a => if k = a then b else Memory.read rest a

/-- Put a cell before the first cell of a higher address. -/
def Memory.place (a : Nat) (b : Byte) : Memory → Memory
  | [] => [(a, b)]
  | (k, c) :: rest => if a < k then (a, b) :: (k, c) :: rest else (k, c) :: Memory.place a b rest

/-- Write one byte; writing the value an unlisted address reads as removes the cell. -/
def Memory.write (m : Memory) (a : Nat) (b : Byte) : Memory :=
  if b = 0#8 then m.filter (fun c => c.1 ≠ a) else Memory.place a b (m.filter (fun c => c.1 ≠ a))

/-- The canonical form: addresses strictly rising and below 2^32, no listed byte equal to 0. -/
abbrev Memory.wf (m : Memory) : Prop :=
  m.Pairwise (fun c d => c.1 < d.1) ∧ ∀ c ∈ m, c.1 < 2 ^ 32 ∧ c.2 ≠ 0#8

/-! ## Registers -/

/-- `x[r]`; `x[0]` reads 0 (rules R15, R20). -/
def State.reg (s : State) (r : RegIdx) : Word := if r = 0#5 then 0#32 else s.regs.get r.toFin

/-- `x[r] <- v`; a write to `x[0]` is discarded (rules R15, R20). -/
def State.setReg (s : State) (r : RegIdx) (v : Word) : State :=
  { s with regs := if r = 0#5 then s.regs else s.regs.set r.toNat v r.isLt }

/-! ## The buffer -/

/-- `off(a)`, the buffer offset of an absolute address (rule R16). -/
def State.off (s : State) (a : Word) : Word := a - s.params.memBase

/-- `InRam(a)`: the four bytes from `a` all lie inside the buffer, whatever the access width (rule R66). -/
def State.inRam (s : State) (a : Word) : Bool := decide ((s.off a).toNat + 3 < s.params.memLen.toNat)

/-- `MemRead(a, 1)` (rule R16). -/
def State.read8 (s : State) (a : Word) : Byte := s.mem.read a.toNat

/-- `MemRead(a, 2)`, little-endian (rules R16, R60). -/
def State.read16 (s : State) (a : Word) : Half := s.read8 (a + 1#32) ++ s.read8 a

/-- `MemRead(a, 4)`, little-endian (rules R16, R60). -/
def State.read32 (s : State) (a : Word) : Word :=
  s.read8 (a + 3#32) ++ s.read8 (a + 2#32) ++ s.read8 (a + 1#32) ++ s.read8 a

/-- `MemWrite(a, 1, v)` (rule R16). -/
def State.write8 (s : State) (a : Word) (v : Byte) : State := { s with mem := s.mem.write a.toNat v }

/-- `MemWrite(a, 2, v)`, little-endian (rules R16, R60). -/
def State.write16 (s : State) (a : Word) (v : Half) : State :=
  { s with mem := (s.mem.write a.toNat (v.extractLsb' 0 8)).write (a + 1#32).toNat (v.extractLsb' 8 8) }

/-- `MemWrite(a, 4, v)`, little-endian (rules R16, R60). -/
def State.write32 (s : State) (a : Word) (v : Word) : State :=
  { s with
    mem := (((s.mem.write a.toNat (v.extractLsb' 0 8)).write (a + 1#32).toNat (v.extractLsb' 8 8)).write
      (a + 2#32).toNat (v.extractLsb' 16 8)).write (a + 3#32).toNat (v.extractLsb' 24 8) }

/-! ## The reservation -/

/-- Whether a write of `n` bytes at `a` touches a byte of the reserved word `[RES, RES+3]`, in buffer offsets
(rule R316; log 9). -/
def State.touchesReservation (s : State) (a : Word) (n : Nat) : Bool :=
  decide ((s.off a).toNat < s.res.toNat + 4 ∧ s.res.toNat < (s.off a).toNat + n)

/-- What a write of `n` bytes at `a` does to the reservation: nothing, unless `STORE_BREAKS_RESERVATION` (rule R316). -/
def State.afterWrite (s : State) (a : Word) (n : Nat) : State :=
  { s with resBroken := s.resBroken || (s.params.storeBreaksReservation && s.touchesReservation a n) }

/-- The low 29 bits of the buffer offset, what `LR.W` records and `SC.W` compares (rules R311, R312). -/
def State.reservationTag (s : State) (a : Word) : BitVec 29 := (s.off a).setWidth 29

/-- `LR.W` records the reservation (rule R311), and clears the model's own flag (rule R316; log 9). -/
def State.reserve (s : State) (a : Word) : State := { s with res := s.reservationTag a, resBroken := false }

/-- Whether `SC.W` at `a` succeeds (rule R312; with `STORE_BREAKS_RESERVATION`, only if not broken, rule R316). -/
def State.reserved (s : State) (a : Word) : Bool :=
  decide (s.res = s.reservationTag a) && !(s.params.storeBreaksReservation && s.resBroken)

/-! ## Counters, as 64-bit views of their halves (rules R15, R37, R38, R39) -/

/-- `CYCLE = cycleh ++ cyclel`. -/
def State.cycle (s : State) : Dword := s.cycleh ++ s.cyclel

/-- Write both halves of CYCLE. -/
def State.setCycle (s : State) (c : Dword) : State :=
  { s with cyclel := c.extractLsb' 0 32, cycleh := c.extractLsb' 32 32 }

/-- `TIMER = timerh ++ timerl`. -/
def State.timer (s : State) : Dword := s.timerh ++ s.timerl

/-- Write both halves of TIMER. -/
def State.setTimer (s : State) (t : Dword) : State :=
  { s with timerl := t.extractLsb' 0 32, timerh := t.extractLsb' 32 32 }

/-- `MATCH = timermatchh ++ timermatchl`. -/
def State.timermatch (s : State) : Dword := s.timermatchh ++ s.timermatchl

/-! ## How an instruction ends -/

/-- The pc becomes `t` and the step returns `Continue` (rules R17, R24). -/
def jumpTo (t : Word) (s : State) : Result := .next { s with pc := t, outcome := .continued }

/-- `pc <- pc + 4`, the ordinary end of an instruction (rules R17, R24 (a)). -/
def finish (s : State) : Result := jumpTo (s.pc + 4#32) s

/-- `x[rd] <- v ; pc <- pc + 4` (rule R148). -/
def writeBack (rd : RegIdx) (v : Word) (s : State) : Result := finish (s.setReg rd v)

/-- The early exits `return Sleeping` and `return Shutdown(c)` with `pc <- pc + 4` (rules R17, R24 (d)). The step has
already counted the instruction; unless `CYCLE_ON_EARLY_EXIT` the count is taken back, which leaves CYCLE as it was before
the step (rules R37, R207; log 15). -/
def endEarly (o : StepOutcome) (s : State) : Result :=
  let t := if s.params.cycleOnEarlyExit then s else s.setCycle (s.cycle - 1#64)
  .next { t with pc := s.pc + 4#32, outcome := o }

/-! ## Traps -/

/-- The exceptions of rule R340. -/
inductive Exception where
  /-- "instruction address misaligned" -/
  | instructionAddressMisaligned
  /-- "instruction access fault" -/
  | instructionAccessFault
  /-- "illegal instruction" -/
  | illegalInstruction
  /-- "breakpoint" -/
  | breakpoint
  /-- "load access fault" -/
  | loadAccessFault
  /-- "store/AMO access fault" -/
  | storeAccessFault
  /-- environment call at `PRIV = 0` -/
  | environmentCallFromU
  /-- environment call at any other `PRIV` -/
  | environmentCallFromM
  deriving DecidableEq, Repr

/-- The exception codes of rule R340 (decision D5). -/
def Exception.code : Exception → Word
  | .instructionAddressMisaligned => 0#32
  | .instructionAccessFault => 1#32
  | .illegalInstruction => 2#32
  | .breakpoint => 3#32
  | .loadAccessFault => 5#32
  | .storeAccessFault => 7#32
  | .environmentCallFromU => 8#32
  | .environmentCallFromM => 11#32

/-- The cause of the machine timer interrupt (rules R344, R351). -/
def timerInterruptCause : Word := 0x80000007#32

/-- Trap entry, the one operation for exceptions and the interrupt (rules R350, R351): `mepc` is the pc at the moment of
entry, every right-hand side is the value before the trap. -/
def enterTrap (cause tval : Word) (s : State) : State :=
  { s with
    mcause := cause
    mtval := tval
    mepc := s.pc
    mstatus := trapStatus s.mstatus s.priv
    priv := 3#2
    pc := s.mtvec
    outcome := .continued }

/-- `raise E(tval)` (rules R17, R350): trap entry and `Continue`. -/
def raise (e : Exception) (tval : Word) (s : State) : Result := .next (enterTrap e.code tval s)

/-- Trap return (rules R297, R352): `MIE <- MPIE`, `MPIE <- 1`, `MPP <- PRIV`, `PRIV <- MPP`, `pc <- mepc`. -/
def returnFromTrap (s : State) : Result :=
  .next { s with
    mstatus := mretStatus s.mstatus s.priv
    priv := mppField s.mstatus
    pc := s.mepc
    outcome := .continued }

/-! ## Memory-mapped addresses (rule R71) -/

/-- Timer low, read only. -/
def timerLowAddr : Word := 0x1100BFF8#32

/-- Timer high, read only. -/
def timerHighAddr : Word := 0x1100BFFC#32

/-- Timer match low, write only. -/
def matchLowAddr : Word := 0x11004000#32

/-- Timer match high, write only. -/
def matchHighAddr : Word := 0x11004004#32

/-- System control: a store shuts the run down. -/
def sysconAddr : Word := 0x11100000#32

end Sys2Proof.Machine
end

