-- ==== Sys2Proof/Machine/Operands.lean ====
section
/-! DEFINITION. Every operand form: sign-extended immediates, effective addresses, targets, shift amounts, CSR immediates
(rules R103 to R108). -/

namespace Sys2Proof.Machine

/-- `immI`, and `immS` of a store: twelve bits sign-extended (rules R103, R104). -/
def imm12 (imm : BitVec 12) : Word := imm.signExtend 32

/-- `immB`: thirteen bits sign-extended (rule R105). -/
def immBranch (offset : BitVec 13) : Word := offset.signExtend 32

/-- `immJ`: twenty-one bits sign-extended (rule R107). -/
def immJump (offset : BitVec 21) : Word := offset.signExtend 32

/-- `immU`: the upper twenty bits, the low twelve 0 (rule R106). -/
def immUpper (imm : BitVec 20) : Word := imm ++ 0#12

/-- The effective address of a load, a store and `JALR`: `x[rs1]` plus the sign-extended displacement, modulo 2^32
(rules R103, R104, R190, R200). -/
def State.effAddr (s : State) (rs1 : RegIdx) (imm : BitVec 12) : Word := s.reg rs1 + imm12 imm

/-- The target of `JALR`, bit 0 cleared (rule R171). -/
def State.jalrTarget (s : State) (rs1 : RegIdx) (imm : BitVec 12) : Word := s.effAddr rs1 imm &&& 0xFFFFFFFE#32

/-- The shift amount of a register shift, `x[rs2][4:0]` (rule R108). -/
def regShamt (v : Word) : Nat := (v.extractLsb' 0 5).toNat

/-- `uimm`, zero-extended (rule R108). -/
def csrImm (uimm : BitVec 5) : Word := uimm.setWidth 32

/-- A comparison's result: exactly 0 or 1 (rule R245). -/
def truth (b : Bool) : Word := if b then 1#32 else 0#32

end Sys2Proof.Machine
end

