-- ==== Sys2Proof/Machine/Atomic.lean ====
section
/-! DEFINITION. Atomics (48_atomics.md): a range test on `x[rs1]` alone, at any alignment, with no memory-mapped window
(rules R310, R313); `aq` and `rl` have no effect (rule R327). -/

namespace Sys2Proof.Machine

/-- The frame of every atomic (rule R310): `op` gets the address, once it is in range. -/
def atomic (rs1 : RegIdx) (op : Word → State → Result) (s : State) : Result :=
  let a := s.reg rs1
  if s.inRam a then op a s else raise .storeAccessFault a s

/-- The shared `op` of the nine AMOs (48_atomics.md section 3): the word becomes `f(v, old)` with `v = x[rs2]`, `rd`
receives `old`. -/
def amo (f : Word → Word → Word) (rd rs2 rs1 : RegIdx) (s : State) : Result :=
  atomic rs1
    (fun a s => writeBack rd (s.read32 a) ((s.write32 a (f (s.reg rs2) (s.read32 a))).afterWrite a 4)) s

/-- Rule R311. -/
def execLrW (rd rs1 : RegIdx) (s : State) : Result :=
  atomic rs1 (fun a s => writeBack rd (s.read32 a) (s.reserve a)) s

/-- Rule R312: 0 on success, 1 on failure; the reservation is not consumed (rule R314). -/
def execScW (rd rs2 rs1 : RegIdx) (s : State) : Result :=
  atomic rs1
    (fun a s =>
      if s.reserved a then writeBack rd 0#32 ((s.write32 a (s.reg rs2)).afterWrite a 4) else writeBack rd 1#32 s) s

/-- Rule R317. -/
def execAmoswapW (rd rs2 rs1 : RegIdx) (s : State) : Result := amo (fun v _ => v) rd rs2 rs1 s

/-- Rule R318. -/
def execAmoaddW (rd rs2 rs1 : RegIdx) (s : State) : Result := amo (fun v old => v + old) rd rs2 rs1 s

/-- Rule R319. -/
def execAmoxorW (rd rs2 rs1 : RegIdx) (s : State) : Result := amo (fun v old => v ^^^ old) rd rs2 rs1 s

/-- Rule R320. -/
def execAmoandW (rd rs2 rs1 : RegIdx) (s : State) : Result := amo (fun v old => v &&& old) rd rs2 rs1 s

/-- Rule R321. -/
def execAmoorW (rd rs2 rs1 : RegIdx) (s : State) : Result := amo (fun v old => v ||| old) rd rs2 rs1 s

/-- Rule R322, signed. -/
def execAmominW (rd rs2 rs1 : RegIdx) (s : State) : Result :=
  amo (fun v old => if v.slt old then v else old) rd rs2 rs1 s

/-- Rule R323, signed. -/
def execAmomaxW (rd rs2 rs1 : RegIdx) (s : State) : Result :=
  amo (fun v old => if old.slt v then v else old) rd rs2 rs1 s

/-- Rule R324, unsigned. -/
def execAmominuW (rd rs2 rs1 : RegIdx) (s : State) : Result :=
  amo (fun v old => if v.ult old then v else old) rd rs2 rs1 s

/-- Rule R325, unsigned. -/
def execAmomaxuW (rd rs2 rs1 : RegIdx) (s : State) : Result :=
  amo (fun v old => if old.ult v then v else old) rd rs2 rs1 s

/-- Rule R326: an undefined sub-operation is illegal only at an address inside the buffer. -/
def execAmoRsv (rs1 : RegIdx) (s : State) : Result :=
  atomic rs1 (fun _ s => raise .illegalInstruction s.pc s) s

end Sys2Proof.Machine
end

