-- ==== Sys2Proof/Machine/Fence.lean ====
section
/-! DEFINITION. Fences (46_fence.md): the pc advances and nothing else happens, since no access is ever out of program
order (rules R76, R77). -/

namespace Sys2Proof.Machine

/-- Rule R280: every `fm`, `pred` and `succ` behaves the same. -/
def execFence (s : State) : Result := finish s

/-- Rule R281: every fetch re-reads memory (rule R79), so there is nothing to do. -/
def execFenceI (s : State) : Result := finish s

/-- Rule R282: every other word of the fence opcode is the same no-op. -/
def execFenceOther (s : State) : Result := finish s

end Sys2Proof.Machine
end

