-- ==== Sys2Proof/Machine/Jumps.lean ====
section
/-! DEFINITION. Jumps and branches (42_jumps_branches.md). No target is checked here: a bad one faults at the next fetch
(rule R180, decision D23). -/

namespace Sys2Proof.Machine

/-- Rule R170. -/
def execJal (rd : RegIdx) (offset : BitVec 21) (s : State) : Result :=
  jumpTo (s.pc + immJump offset) (s.setReg rd (s.pc + 4#32))

/-- Rule R171: `x[rs1]` is read before `rd` is written. -/
def execJalr (rd rs1 : RegIdx) (imm : BitVec 12) (s : State) : Result :=
  jumpTo (s.jalrTarget rs1 imm) (s.setReg rd (s.pc + 4#32))

/-- The six branches (rule R172): `cond` on the two sources decides between the target and `pc + 4`. -/
def branch (cond : Word → Word → Bool) (rs1 rs2 : RegIdx) (offset : BitVec 13) (s : State) : Result :=
  if cond (s.reg rs1) (s.reg rs2) then jumpTo (s.pc + immBranch offset) s else finish s

/-- Rule R173. -/
def execBeq (rs1 rs2 : RegIdx) (offset : BitVec 13) (s : State) : Result :=
  branch (fun a b => a == b) rs1 rs2 offset s

/-- Rule R174. -/
def execBne (rs1 rs2 : RegIdx) (offset : BitVec 13) (s : State) : Result :=
  branch (fun a b => a != b) rs1 rs2 offset s

/-- Rule R175, signed. -/
def execBlt (rs1 rs2 : RegIdx) (offset : BitVec 13) (s : State) : Result :=
  branch (fun a b => a.slt b) rs1 rs2 offset s

/-- Rule R176, signed. -/
def execBge (rs1 rs2 : RegIdx) (offset : BitVec 13) (s : State) : Result :=
  branch (fun a b => !a.slt b) rs1 rs2 offset s

/-- Rule R177, unsigned. -/
def execBltu (rs1 rs2 : RegIdx) (offset : BitVec 13) (s : State) : Result :=
  branch (fun a b => a.ult b) rs1 rs2 offset s

/-- Rule R178, unsigned. -/
def execBgeu (rs1 rs2 : RegIdx) (offset : BitVec 13) (s : State) : Result :=
  branch (fun a b => !a.ult b) rs1 rs2 offset s

end Sys2Proof.Machine
end

