-- ==== Sys2Proof/Machine/LoadStore.lean ====
section
/-! DEFINITION. Loads and stores (43_loads_stores.md): the range test comes first, then the memory-mapped addresses, then
the width (rule R67). -/

namespace Sys2Proof.Machine

/-- The frame of every load (rule R190): `inRange` is what the width field does at an address inside the buffer. -/
def load (rd rs1 : RegIdx) (imm : BitVec 12) (inRange : Word → State → Result) (s : State) : Result :=
  let a := s.effAddr rs1 imm
  if s.inRam a then inRange a s
  else if a = timerHighAddr then writeBack rd s.timerh s
  else if a = timerLowAddr then writeBack rd s.timerl s
  else raise .loadAccessFault a s

/-- Rule R191. -/
def execLb (rd rs1 : RegIdx) (imm : BitVec 12) (s : State) : Result :=
  load rd rs1 imm (fun a s => writeBack rd ((s.read8 a).signExtend 32) s) s

/-- Rule R192. -/
def execLh (rd rs1 : RegIdx) (imm : BitVec 12) (s : State) : Result :=
  load rd rs1 imm (fun a s => writeBack rd ((s.read16 a).signExtend 32) s) s

/-- Rule R193. -/
def execLw (rd rs1 : RegIdx) (imm : BitVec 12) (s : State) : Result :=
  load rd rs1 imm (fun a s => writeBack rd (s.read32 a) s) s

/-- Rule R194. -/
def execLbu (rd rs1 : RegIdx) (imm : BitVec 12) (s : State) : Result :=
  load rd rs1 imm (fun a s => writeBack rd ((s.read8 a).setWidth 32) s) s

/-- Rule R195. -/
def execLhu (rd rs1 : RegIdx) (imm : BitVec 12) (s : State) : Result :=
  load rd rs1 imm (fun a s => writeBack rd ((s.read16 a).setWidth 32) s) s

/-- Rule R196: an undefined width field is illegal only inside the buffer. -/
def execLoadRsv (rd rs1 : RegIdx) (imm : BitVec 12) (s : State) : Result :=
  load rd rs1 imm (fun _ s => raise .illegalInstruction s.pc s) s

/-- The frame of every store (rules R200, R73, R207): `inRange` gets the address and the value of `x[rs2]`. -/
def store (rs2 rs1 : RegIdx) (imm : BitVec 12) (inRange : Word → Word → State → Result) (s : State) : Result :=
  let a := s.effAddr rs1 imm
  let v := s.reg rs2
  if s.inRam a then inRange a v s
  else if a = matchHighAddr then finish { s with timermatchh := v }
  else if a = matchLowAddr then finish { s with timermatchl := v }
  else if a = sysconAddr then endEarly (.shutdown v) s
  else raise .storeAccessFault a s

/-- Rule R201. -/
def execSb (rs2 rs1 : RegIdx) (imm : BitVec 12) (s : State) : Result :=
  store rs2 rs1 imm (fun a v s => finish ((s.write8 a (v.extractLsb' 0 8)).afterWrite a 1)) s

/-- Rule R202. -/
def execSh (rs2 rs1 : RegIdx) (imm : BitVec 12) (s : State) : Result :=
  store rs2 rs1 imm (fun a v s => finish ((s.write16 a (v.extractLsb' 0 16)).afterWrite a 2)) s

/-- Rule R203. -/
def execSw (rs2 rs1 : RegIdx) (imm : BitVec 12) (s : State) : Result :=
  store rs2 rs1 imm (fun a v s => finish ((s.write32 a v).afterWrite a 4)) s

/-- Rule R204: an undefined width field is illegal only inside the buffer, and nothing is written. -/
def execStoreRsv (rs2 rs1 : RegIdx) (imm : BitVec 12) (s : State) : Result :=
  store rs2 rs1 imm (fun _ _ s => raise .illegalInstruction s.pc s) s

end Sys2Proof.Machine
end

