-- ==== Sys2Proof/Machine/IntOp.lean ====
section
/-! DEFINITION. Integer operations, register-immediate and register-register (44_integer_op.md). -/

namespace Sys2Proof.Machine

/-- Common to Op-Immediate (rule R220): `x[rd] <- f(x[rs1], immI)`. -/
def opImm (f : Word → Word → Word) (rd rs1 : RegIdx) (imm : BitVec 12) (s : State) : Result :=
  writeBack rd (f (s.reg rs1) (imm12 imm)) s

/-- Common to the immediate shifts (rules R108, R220): `x[rd] <- f(x[rs1], shamt)`. -/
def shiftImm (f : Word → Nat → Word) (rd rs1 : RegIdx) (shamt : BitVec 5) (s : State) : Result :=
  writeBack rd (f (s.reg rs1) shamt.toNat) s

/-- Common to Op (rules R220, R260): `x[rd] <- f(x[rs1], x[rs2])`. -/
def opReg (f : Word → Word → Word) (rd rs1 rs2 : RegIdx) (s : State) : Result :=
  writeBack rd (f (s.reg rs1) (s.reg rs2)) s

/-- Rule R221. -/
def execAddi (rd rs1 : RegIdx) (imm : BitVec 12) (s : State) : Result := opImm (fun a b => a + b) rd rs1 imm s

/-- Rule R222. -/
def execSlti (rd rs1 : RegIdx) (imm : BitVec 12) (s : State) : Result := opImm (fun a b => truth (a.slt b)) rd rs1 imm s

/-- Rule R223: the sign-extended immediate is compared as unsigned. -/
def execSltiu (rd rs1 : RegIdx) (imm : BitVec 12) (s : State) : Result := opImm (fun a b => truth (a.ult b)) rd rs1 imm s

/-- Rule R224. -/
def execXori (rd rs1 : RegIdx) (imm : BitVec 12) (s : State) : Result := opImm (fun a b => a ^^^ b) rd rs1 imm s

/-- Rule R225. -/
def execOri (rd rs1 : RegIdx) (imm : BitVec 12) (s : State) : Result := opImm (fun a b => a ||| b) rd rs1 imm s

/-- Rule R226. -/
def execAndi (rd rs1 : RegIdx) (imm : BitVec 12) (s : State) : Result := opImm (fun a b => a &&& b) rd rs1 imm s

/-- Rule R227. -/
def execSlli (rd rs1 : RegIdx) (shamt : BitVec 5) (s : State) : Result := shiftImm (fun a n => a <<< n) rd rs1 shamt s

/-- Rule R228. -/
def execSrli (rd rs1 : RegIdx) (shamt : BitVec 5) (s : State) : Result := shiftImm (fun a n => a >>> n) rd rs1 shamt s

/-- Rule R229. -/
def execSrai (rd rs1 : RegIdx) (shamt : BitVec 5) (s : State) : Result :=
  shiftImm (fun a n => a.sshiftRight n) rd rs1 shamt s

/-- Rule R231. -/
def execAdd (rd rs1 rs2 : RegIdx) (s : State) : Result := opReg (fun a b => a + b) rd rs1 rs2 s

/-- Rule R232. -/
def execSub (rd rs1 rs2 : RegIdx) (s : State) : Result := opReg (fun a b => a - b) rd rs1 rs2 s

/-- Rule R233: the low five bits of `x[rs2]` are the amount. -/
def execSll (rd rs1 rs2 : RegIdx) (s : State) : Result := opReg (fun a b => a <<< regShamt b) rd rs1 rs2 s

/-- Rule R234. -/
def execSlt (rd rs1 rs2 : RegIdx) (s : State) : Result := opReg (fun a b => truth (a.slt b)) rd rs1 rs2 s

/-- Rule R235. -/
def execSltu (rd rs1 rs2 : RegIdx) (s : State) : Result := opReg (fun a b => truth (a.ult b)) rd rs1 rs2 s

/-- Rule R236. -/
def execXor (rd rs1 rs2 : RegIdx) (s : State) : Result := opReg (fun a b => a ^^^ b) rd rs1 rs2 s

/-- Rule R237. -/
def execSrl (rd rs1 rs2 : RegIdx) (s : State) : Result := opReg (fun a b => a >>> regShamt b) rd rs1 rs2 s

/-- Rule R238. -/
def execSra (rd rs1 rs2 : RegIdx) (s : State) : Result := opReg (fun a b => a.sshiftRight (regShamt b)) rd rs1 rs2 s

/-- Rule R239. -/
def execOr (rd rs1 rs2 : RegIdx) (s : State) : Result := opReg (fun a b => a ||| b) rd rs1 rs2 s

/-- Rule R240. -/
def execAnd (rd rs1 rs2 : RegIdx) (s : State) : Result := opReg (fun a b => a &&& b) rd rs1 rs2 s

end Sys2Proof.Machine
end

