-- ==== Sys2Proof/Machine/MulDiv.lean ====
section
/-! DEFINITION. Multiply, divide and remainder (45_muldiv.md). Products and quotients are computed exactly, as integers or
in 64 bits, and then narrowed. -/

namespace Sys2Proof.Machine

/-- The high 32 bits of an exact product, as a 64-bit two's-complement integer (rules R262 to R264). -/
def highWord (product : Int) : Word := (BitVec.ofInt 64 product).extractLsb' 32 32

/-- The one signed division that overflows: `INT32_MIN / -1` (rules R265, R267). -/
def divOverflows (a b : Word) : Bool := a == 0x80000000#32 && b == 0xFFFFFFFF#32

/-- The quotient of `DIV` (rule R265): rounded toward zero. -/
def divSigned (a b : Word) : Word :=
  if b = 0#32 then 0xFFFFFFFF#32
  else if divOverflows a b then a
  else BitVec.ofInt 32 (a.toInt.tdiv b.toInt)

/-- The quotient of `DIVU` (rule R266). -/
def divUnsigned (a b : Word) : Word :=
  if b = 0#32 then 0xFFFFFFFF#32 else BitVec.ofNat 32 (a.toNat / b.toNat)

/-- The remainder of `REM` (rule R267): what the truncated quotient leaves, with the sign of the dividend. -/
def remSigned (a b : Word) : Word :=
  if b = 0#32 then a
  else if divOverflows a b then 0#32
  else BitVec.ofInt 32 (a.toInt - b.toInt * a.toInt.tdiv b.toInt)

/-- The remainder of `REMU` (rule R268). -/
def remUnsigned (a b : Word) : Word :=
  if b = 0#32 then a else BitVec.ofNat 32 (a.toNat % b.toNat)

/-- Rule R261. -/
def execMul (rd rs1 rs2 : RegIdx) (s : State) : Result := opReg (fun a b => a * b) rd rs1 rs2 s

/-- Rule R262. -/
def execMulh (rd rs1 rs2 : RegIdx) (s : State) : Result := opReg (fun a b => highWord (a.toInt * b.toInt)) rd rs1 rs2 s

/-- Rule R263: `rs1` signed, `rs2` unsigned. -/
def execMulhsu (rd rs1 rs2 : RegIdx) (s : State) : Result :=
  opReg (fun a b => highWord (a.toInt * b.toNat)) rd rs1 rs2 s

/-- Rule R264. -/
def execMulhu (rd rs1 rs2 : RegIdx) (s : State) : Result := opReg (fun a b => highWord (a.toNat * b.toNat)) rd rs1 rs2 s

/-- Rule R265. -/
def execDiv (rd rs1 rs2 : RegIdx) (s : State) : Result := opReg divSigned rd rs1 rs2 s

/-- Rule R266. -/
def execDivu (rd rs1 rs2 : RegIdx) (s : State) : Result := opReg divUnsigned rd rs1 rs2 s

/-- Rule R267. -/
def execRem (rd rs1 rs2 : RegIdx) (s : State) : Result := opReg remSigned rd rs1 rs2 s

/-- Rule R268. -/
def execRemu (rd rs1 rs2 : RegIdx) (s : State) : Result := opReg remUnsigned rd rs1 rs2 s

end Sys2Proof.Machine
end

