-- ==== Sys2Proof/Machine/System.lean ====
section
/-! DEFINITION. CSR access, ECALL, EBREAK, WFI, MRET and the illegal words (47_system.md, rule R147). No instruction here is
checked against the privilege level (rule R299). -/

namespace Sys2Proof.Machine

/-- `CsrRead(n)` (rules R31, R286): an unmapped number reads 0. -/
def State.csrRead (s : State) (n : BitVec 12) : Word :=
  match n with
  | 0x300#12 => s.mstatus
  | 0x301#12 => s.params.misaValue
  | 0x304#12 => s.mie
  | 0x305#12 => s.mtvec
  | 0x340#12 => s.mscratch
  | 0x341#12 => s.mepc
  | 0x342#12 => s.mcause
  | 0x343#12 => s.mtval
  | 0x344#12 => s.mip
  | 0xC00#12 => s.cyclel
  | 0xF11#12 => s.params.mvendoridValue
  | _ => 0#32

/-- `CsrWrite(n, v)` (rules R31, R286): a read-only or unmapped number ignores the write. -/
def State.csrWrite (s : State) (n : BitVec 12) (v : Word) : State :=
  match n with
  | 0x300#12 => { s with mstatus := v }
  | 0x304#12 => { s with mie := v }
  | 0x305#12 => { s with mtvec := v }
  | 0x340#12 => { s with mscratch := v }
  | 0x341#12 => { s with mepc := v }
  | 0x342#12 => { s with mcause := v }
  | 0x343#12 => { s with mtval := v }
  | 0x344#12 => { s with mip := v }
  | _ => s

/-- Common to the six CSR instructions (rule R285): the CSR and the source are read, the write is always performed
(decision D21), `rd` receives the old value. -/
def csrAccess (rd : RegIdx) (csr : BitVec 12) (new : Word → Word) (s : State) : Result :=
  writeBack rd (s.csrRead csr) (s.csrWrite csr (new (s.csrRead csr)))

/-- Rule R287. -/
def execCsrrw (rd : RegIdx) (csr : BitVec 12) (rs1 : RegIdx) (s : State) : Result :=
  csrAccess rd csr (fun _ => s.reg rs1) s

/-- Rule R288. -/
def execCsrrs (rd : RegIdx) (csr : BitVec 12) (rs1 : RegIdx) (s : State) : Result :=
  csrAccess rd csr (fun old => old ||| s.reg rs1) s

/-- Rule R289. -/
def execCsrrc (rd : RegIdx) (csr : BitVec 12) (rs1 : RegIdx) (s : State) : Result :=
  csrAccess rd csr (fun old => old &&& ~~~(s.reg rs1)) s

/-- Rule R290. -/
def execCsrrwi (rd : RegIdx) (csr : BitVec 12) (uimm : BitVec 5) (s : State) : Result :=
  csrAccess rd csr (fun _ => csrImm uimm) s

/-- Rule R291. -/
def execCsrrsi (rd : RegIdx) (csr : BitVec 12) (uimm : BitVec 5) (s : State) : Result :=
  csrAccess rd csr (fun old => old ||| csrImm uimm) s

/-- Rule R292. -/
def execCsrrci (rd : RegIdx) (csr : BitVec 12) (uimm : BitVec 5) (s : State) : Result :=
  csrAccess rd csr (fun old => old &&& ~~~(csrImm uimm)) s

/-- Rule R294: the cause depends on the privilege level only through `PRIV = 0` (decision D6). -/
def execEcall (s : State) : Result :=
  if s.priv = 0#2 then raise .environmentCallFromU s.pc s else raise .environmentCallFromM s.pc s

/-- Rule R295. -/
def execEbreak (s : State) : Result := raise .breakpoint s.pc s

/-- Rule R296: MIE and SLEEP are set, the pc advances, the step returns `Sleeping`. -/
def execWfi (s : State) : Result := endEarly .sleeping { s with mstatus := wfiStatus s.mstatus, sleep := true }

/-- Rule R297. -/
def execMret (s : State) : Result := returnFromTrap s

/-- Rules R147, R298: illegal instruction, with the pc as trap value and not the instruction's bits. -/
def execIllegal (s : State) : Result := raise .illegalInstruction s.pc s

end Sys2Proof.Machine
end

