-- ==== Sys2Proof/Machine/UpperImm.lean ====
section
/-! DEFINITION. LUI and AUIPC (41_upper_immediate.md). -/

namespace Sys2Proof.Machine

/-- Rule R160. -/
def execLui (rd : RegIdx) (imm : BitVec 20) (s : State) : Result := writeBack rd (immUpper imm) s

/-- Rule R161: the pc is this instruction's address. -/
def execAuipc (rd : RegIdx) (imm : BitVec 20) (s : State) : Result := writeBack rd (s.pc + immUpper imm) s

end Sys2Proof.Machine
end

