-- ==== Sys2Proof/Machine/Fields.lean ====
section
/-! DEFINITION. The fields of an instruction word and its immediates (rules R101 to R108, GK1). An immediate is given
here as the bits the word holds, put in order; sign extension is in Machine/Operands.lean. -/

namespace Sys2Proof.Machine

/-- `ir[6:0]` (rule R101). -/
def opcodeOf (w : Word) : BitVec 7 := w.extractLsb' 0 7

/-- `rd = ir[11:7]` (rule R101). -/
def rdOf (w : Word) : RegIdx := w.extractLsb' 7 5

/-- `funct3 = ir[14:12]` (rule R101). -/
def funct3Of (w : Word) : BitVec 3 := w.extractLsb' 12 3

/-- `rs1 = ir[19:15]` (rule R101); also `uimm` of the immediate CSR forms (rule R108). -/
def rs1Of (w : Word) : RegIdx := w.extractLsb' 15 5

/-- `rs2 = ir[24:20]` (rule R101); also `shamt` of the immediate shifts (rule R108). -/
def rs2Of (w : Word) : RegIdx := w.extractLsb' 20 5

/-- `funct5 = ir[31:27]` (rule R101). -/
def funct5Of (w : Word) : BitVec 5 := w.extractLsb' 27 5

/-- `funct12 = csr = ir[31:20]`, also the twelve bits of the I-immediate (rules R101, R103). -/
def imm12Of (w : Word) : BitVec 12 := w.extractLsb' 20 12

/-- `aq = ir[26]` (rule R101). -/
def aqOf (w : Word) : BitVec 1 := w.extractLsb' 26 1

/-- `rl = ir[25]` (rule R101). -/
def rlOf (w : Word) : BitVec 1 := w.extractLsb' 25 1

/-- `ir[25]`, the "is-this-really-M-extension" bit of Op (rules R101, R115). -/
def mulBitOf (w : Word) : Bool := w.getLsbD 25

/-- `ir[30]`, the "extra bit": subtract, arithmetic right shift (rules R101, R113, R114). -/
def extraBitOf (w : Word) : Bool := w.getLsbD 30

/-- The twelve bits of the S-immediate, `ir[31:25] ++ ir[11:7]` (rule R104). -/
def immSOf (w : Word) : BitVec 12 := w.extractLsb' 25 7 ++ w.extractLsb' 7 5

/-- The thirteen bits of the B-immediate, `ir[31] ++ ir[7] ++ ir[30:25] ++ ir[11:8] ++ 0` (rule R105). -/
def immBOf (w : Word) : BitVec 13 :=
  w.extractLsb' 31 1 ++ w.extractLsb' 7 1 ++ w.extractLsb' 25 6 ++ w.extractLsb' 8 4 ++ 0#1

/-- The upper twenty bits of the U-immediate, `ir[31:12]` (rule R106). -/
def immUOf (w : Word) : BitVec 20 := w.extractLsb' 12 20

/-- The twenty-one bits of the J-immediate, `ir[31] ++ ir[19:12] ++ ir[20] ++ ir[30:21] ++ 0` (rule R107). -/
def immJOf (w : Word) : BitVec 21 :=
  w.extractLsb' 31 1 ++ w.extractLsb' 12 8 ++ w.extractLsb' 20 1 ++ w.extractLsb' 21 10 ++ 0#1

/-- `fm = ir[31:28]` of `FENCE` (rule R116). -/
def fmOf (w : Word) : BitVec 4 := w.extractLsb' 28 4

/-- `pred = ir[27:24]` of `FENCE` (rule R116). -/
def predOf (w : Word) : BitVec 4 := w.extractLsb' 24 4

/-- `succ = ir[23:20]` of `FENCE` (rule R116). -/
def succOf (w : Word) : BitVec 4 := w.extractLsb' 20 4

end Sys2Proof.Machine
end

