-- ==== Sys2Proof/WellFormed.lean ====
section
/-! DEFINITION. Which terms of `Instr` some word decodes to: even offsets, undefined selectors in the reserved rows, and
a word of rule R121's list in `illegal`. Every other field is as wide as its encoding, so it needs no check. -/

namespace Sys2Proof

open Machine in
/-- The words of rule R121 (a), (b), (e), (f): those that match no row before `ILLEGAL` (rule R147). -/
def isIllegalWord (w : Word) : Bool :=
  if opcodeOf w = 0x63#7 then decide (funct3Of w = 2#3 ∨ funct3Of w = 3#3)
  else if opcodeOf w = 0x73#7 then
    decide (funct3Of w = 4#3) ||
      decide (funct3Of w = 0#3 ∧ imm12Of w ≠ 0x000#12 ∧ imm12Of w ≠ 0x001#12 ∧ imm12Of w ≠ 0x105#12 ∧
        imm12Of w ≠ 0x302#12)
  else
    decide (opcodeOf w ∉ [0x37#7, 0x17#7, 0x6F#7, 0x67#7, 0x03#7, 0x23#7, 0x13#7, 0x33#7, 0x0F#7, 0x2F#7])

/-- The eleven defined values of `funct5` (rule R118). -/
def definedFunct5 : List (BitVec 5) :=
  [0b00010#5, 0b00011#5, 0b00001#5, 0b00000#5, 0b00100#5, 0b01100#5, 0b01000#5, 0b10000#5, 0b10100#5, 0b11000#5,
    0b11100#5]

/-- The terms that stand for a word. -/
def Instr.wf : Instr → Bool
  | .lui _ _ => true
  | .auipc _ _ => true
  | .jal _ offset => !offset.getLsbD 0
  | .jalr _ _ _ => true
  | .beq _ _ offset => !offset.getLsbD 0
  | .bne _ _ offset => !offset.getLsbD 0
  | .blt _ _ offset => !offset.getLsbD 0
  | .bge _ _ offset => !offset.getLsbD 0
  | .bltu _ _ offset => !offset.getLsbD 0
  | .bgeu _ _ offset => !offset.getLsbD 0
  | .lb _ _ _ => true
  | .lh _ _ _ => true
  | .lw _ _ _ => true
  | .lbu _ _ _ => true
  | .lhu _ _ _ => true
  | .sb _ _ _ => true
  | .sh _ _ _ => true
  | .sw _ _ _ => true
  | .addi _ _ _ => true
  | .slti _ _ _ => true
  | .sltiu _ _ _ => true
  | .xori _ _ _ => true
  | .ori _ _ _ => true
  | .andi _ _ _ => true
  | .slli _ _ _ => true
  | .srli _ _ _ => true
  | .srai _ _ _ => true
  | .add _ _ _ => true
  | .sub _ _ _ => true
  | .sll _ _ _ => true
  | .slt _ _ _ => true
  | .sltu _ _ _ => true
  | .xor _ _ _ => true
  | .srl _ _ _ => true
  | .sra _ _ _ => true
  | .or _ _ _ => true
  | .and _ _ _ => true
  | .mul _ _ _ => true
  | .mulh _ _ _ => true
  | .mulhsu _ _ _ => true
  | .mulhu _ _ _ => true
  | .div _ _ _ => true
  | .divu _ _ _ => true
  | .rem _ _ _ => true
  | .remu _ _ _ => true
  | .fence _ _ _ => true
  | .fenceI => true
  | .csrrw _ _ _ => true
  | .csrrs _ _ _ => true
  | .csrrc _ _ _ => true
  | .csrrwi _ _ _ => true
  | .csrrsi _ _ _ => true
  | .csrrci _ _ _ => true
  | .ecall => true
  | .ebreak => true
  | .wfi => true
  | .mret => true
  | .lrW _ _ _ _ => true
  | .scW _ _ _ _ _ => true
  | .amoswapW _ _ _ _ _ => true
  | .amoaddW _ _ _ _ _ => true
  | .amoxorW _ _ _ _ _ => true
  | .amoandW _ _ _ _ _ => true
  | .amoorW _ _ _ _ _ => true
  | .amominW _ _ _ _ _ => true
  | .amomaxW _ _ _ _ _ => true
  | .amominuW _ _ _ _ _ => true
  | .amomaxuW _ _ _ _ _ => true
  | .fenceOther funct3 => decide (funct3 ≠ 0#3 ∧ funct3 ≠ 1#3)
  | .loadRsv _ _ _ funct3 => decide (funct3 ∈ [3#3, 6#3, 7#3])
  | .storeRsv _ _ _ funct3 => decide (funct3 ∉ [0#3, 1#3, 2#3])
  | .amoRsv _ funct5 => decide (funct5 ∉ definedFunct5)
  | .illegal word => isIllegalWord word

end Sys2Proof
end

