-- ==== Sys2Proof/Decode.lean ====
section
/-! DEFINITION. The decoder and the encoder. The decoder looks at selector bits only (rule R120): a word means what the
first row of spec/opcode_table.json it matches means (rule R146), so every word decodes, and words of rule R121 decode to
`illegal`. Bytes are laid out little-endian (rules R60, R61). -/

namespace Sys2Proof

open Machine

/-- The instruction word whose bytes, lowest address first, are the four given (rules R60, R61). -/
def wordOfBytes (b0 b1 b2 b3 : Byte) : Word := b3 ++ b2 ++ b1 ++ b0

/-- The bytes of a word, lowest address first (rule R60). -/
def bytesOfWord (w : Word) : List Byte :=
  [w.extractLsb' 0 8, w.extractLsb' 8 8, w.extractLsb' 16 8, w.extractLsb' 24 8]

/-- Branch group (rule R110). -/
def decodeBranch (w : Word) : Instr :=
  match funct3Of w with
  | 0#3 => .beq (rs1Of w) (rs2Of w) (immBOf w)
  | 1#3 => .bne (rs1Of w) (rs2Of w) (immBOf w)
  | 4#3 => .blt (rs1Of w) (rs2Of w) (immBOf w)
  | 5#3 => .bge (rs1Of w) (rs2Of w) (immBOf w)
  | 6#3 => .bltu (rs1Of w) (rs2Of w) (immBOf w)
  | 7#3 => .bgeu (rs1Of w) (rs2Of w) (immBOf w)
  | _ => .illegal w

/-- Load group (rule R111). -/
def decodeLoad (w : Word) : Instr :=
  match funct3Of w with
  | 0#3 => .lb (rdOf w) (rs1Of w) (imm12Of w)
  | 1#3 => .lh (rdOf w) (rs1Of w) (imm12Of w)
  | 2#3 => .lw (rdOf w) (rs1Of w) (imm12Of w)
  | 4#3 => .lbu (rdOf w) (rs1Of w) (imm12Of w)
  | 5#3 => .lhu (rdOf w) (rs1Of w) (imm12Of w)
  | _ => .loadRsv (rdOf w) (rs1Of w) (imm12Of w) (funct3Of w)

/-- Store group (rule R112). -/
def decodeStore (w : Word) : Instr :=
  match funct3Of w with
  | 0#3 => .sb (rs2Of w) (rs1Of w) (immSOf w)
  | 1#3 => .sh (rs2Of w) (rs1Of w) (immSOf w)
  | 2#3 => .sw (rs2Of w) (rs1Of w) (immSOf w)
  | _ => .storeRsv (rs2Of w) (rs1Of w) (immSOf w) (funct3Of w)

/-- Op-Immediate group (rule R113): of `ir[31:25]` a shift examines bit 30 only, and `SLLI` none. -/
def decodeOpImm (w : Word) : Instr :=
  match funct3Of w with
  | 0#3 => .addi (rdOf w) (rs1Of w) (imm12Of w)
  | 1#3 => .slli (rdOf w) (rs1Of w) (rs2Of w)
  | 2#3 => .slti (rdOf w) (rs1Of w) (imm12Of w)
  | 3#3 => .sltiu (rdOf w) (rs1Of w) (imm12Of w)
  | 4#3 => .xori (rdOf w) (rs1Of w) (imm12Of w)
  | 5#3 => if extraBitOf w then .srai (rdOf w) (rs1Of w) (rs2Of w) else .srli (rdOf w) (rs1Of w) (rs2Of w)
  | 6#3 => .ori (rdOf w) (rs1Of w) (imm12Of w)
  | _ => .andi (rdOf w) (rs1Of w) (imm12Of w)

/-- Op group with `ir[25] = 0` (rule R114). -/
def decodeOpBase (w : Word) : Instr :=
  match funct3Of w with
  | 0#3 => if extraBitOf w then .sub (rdOf w) (rs1Of w) (rs2Of w) else .add (rdOf w) (rs1Of w) (rs2Of w)
  | 1#3 => .sll (rdOf w) (rs1Of w) (rs2Of w)
  | 2#3 => .slt (rdOf w) (rs1Of w) (rs2Of w)
  | 3#3 => .sltu (rdOf w) (rs1Of w) (rs2Of w)
  | 4#3 => .xor (rdOf w) (rs1Of w) (rs2Of w)
  | 5#3 => if extraBitOf w then .sra (rdOf w) (rs1Of w) (rs2Of w) else .srl (rdOf w) (rs1Of w) (rs2Of w)
  | 6#3 => .or (rdOf w) (rs1Of w) (rs2Of w)
  | _ => .and (rdOf w) (rs1Of w) (rs2Of w)

/-- Op group with `ir[25] = 1`, the M extension (rule R115). -/
def decodeOpMul (w : Word) : Instr :=
  match funct3Of w with
  | 0#3 => .mul (rdOf w) (rs1Of w) (rs2Of w)
  | 1#3 => .mulh (rdOf w) (rs1Of w) (rs2Of w)
  | 2#3 => .mulhsu (rdOf w) (rs1Of w) (rs2Of w)
  | 3#3 => .mulhu (rdOf w) (rs1Of w) (rs2Of w)
  | 4#3 => .div (rdOf w) (rs1Of w) (rs2Of w)
  | 5#3 => .divu (rdOf w) (rs1Of w) (rs2Of w)
  | 6#3 => .rem (rdOf w) (rs1Of w) (rs2Of w)
  | _ => .remu (rdOf w) (rs1Of w) (rs2Of w)

/-- Fence group (rule R116). -/
def decodeFence (w : Word) : Instr :=
  match funct3Of w with
  | 0#3 => .fence (fmOf w) (predOf w) (succOf w)
  | 1#3 => .fenceI
  | _ => .fenceOther (funct3Of w)

/-- System group (rule R117): `funct12` is compared on all twelve bits (decision D11), `rd` and `rs1` are not. -/
def decodeSystem (w : Word) : Instr :=
  match funct3Of w with
  | 0#3 =>
    match imm12Of w with
    | 0x000#12 => .ecall
    | 0x001#12 => .ebreak
    | 0x105#12 => .wfi
    | 0x302#12 => .mret
    | _ => .illegal w
  | 1#3 => .csrrw (rdOf w) (imm12Of w) (rs1Of w)
  | 2#3 => .csrrs (rdOf w) (imm12Of w) (rs1Of w)
  | 3#3 => .csrrc (rdOf w) (imm12Of w) (rs1Of w)
  | 5#3 => .csrrwi (rdOf w) (imm12Of w) (rs1Of w)
  | 6#3 => .csrrsi (rdOf w) (imm12Of w) (rs1Of w)
  | 7#3 => .csrrci (rdOf w) (imm12Of w) (rs1Of w)
  | _ => .illegal w

/-- Atomic group (rule R118); `funct3`, and `rs2` of `LR.W`, are not examined. -/
def decodeAtomic (w : Word) : Instr :=
  match funct5Of w with
  | 0b00010#5 => .lrW (rdOf w) (rs1Of w) (aqOf w) (rlOf w)
  | 0b00011#5 => .scW (rdOf w) (rs2Of w) (rs1Of w) (aqOf w) (rlOf w)
  | 0b00001#5 => .amoswapW (rdOf w) (rs2Of w) (rs1Of w) (aqOf w) (rlOf w)
  | 0b00000#5 => .amoaddW (rdOf w) (rs2Of w) (rs1Of w) (aqOf w) (rlOf w)
  | 0b00100#5 => .amoxorW (rdOf w) (rs2Of w) (rs1Of w) (aqOf w) (rlOf w)
  | 0b01100#5 => .amoandW (rdOf w) (rs2Of w) (rs1Of w) (aqOf w) (rlOf w)
  | 0b01000#5 => .amoorW (rdOf w) (rs2Of w) (rs1Of w) (aqOf w) (rlOf w)
  | 0b10000#5 => .amominW (rdOf w) (rs2Of w) (rs1Of w) (aqOf w) (rlOf w)
  | 0b10100#5 => .amomaxW (rdOf w) (rs2Of w) (rs1Of w) (aqOf w) (rlOf w)
  | 0b11000#5 => .amominuW (rdOf w) (rs2Of w) (rs1Of w) (aqOf w) (rlOf w)
  | 0b11100#5 => .amomaxuW (rdOf w) (rs2Of w) (rs1Of w) (aqOf w) (rlOf w)
  | _ => .amoRsv (rs1Of w) (funct5Of w)

/-- The decoder: the twelve major opcodes of rule R109, and `illegal` for any other. -/
def decode (w : Word) : Instr :=
  match opcodeOf w with
  | 0x37#7 => .lui (rdOf w) (immUOf w)
  | 0x17#7 => .auipc (rdOf w) (immUOf w)
  | 0x6F#7 => .jal (rdOf w) (immJOf w)
  | 0x67#7 => .jalr (rdOf w) (rs1Of w) (imm12Of w)
  | 0x63#7 => decodeBranch w
  | 0x03#7 => decodeLoad w
  | 0x23#7 => decodeStore w
  | 0x13#7 => decodeOpImm w
  | 0x33#7 => if mulBitOf w then decodeOpMul w else decodeOpBase w
  | 0x0F#7 => decodeFence w
  | 0x73#7 => decodeSystem w
  | 0x2F#7 => decodeAtomic w
  | _ => .illegal w

/-- Why bytes hold no instruction: every word decodes (rule R146), so only want of bytes is left. -/
inductive DecodeError where
  /-- Fewer than the four bytes of an instruction (rule R100). -/
  | truncated
  deriving DecidableEq, Repr

/-- The first instruction of a list of bytes, lowest address first, and the bytes after it (rule R100). -/
def decodeBytes : List Byte → Except DecodeError (Instr × List Byte)
  | b0 :: b1 :: b2 :: b3 :: rest => .ok (decode (wordOfBytes b0 b1 b2 b3), rest)
  | _ => .error .truncated

/-- The decoder's instruction for bits numbered as spec/opcode_table.json numbers them: the word is laid out in bytes as
the buffer holds it and given to `decodeBytes`. Bits from `nbits` up are 0. -/
def decodeTableWord (nbits w : Nat) : Option Instr :=
  match decodeBytes (bytesOfWord (BitVec.ofNat 32 (w % 2 ^ nbits))) with
  | .ok (i, _) => some i
  | .error _ => none

/-- A field with its lowest bit at position `lo` of the word (rule R102). -/
def put {n : Nat} (field : BitVec n) (lo : Nat) : Word := field.setWidth 32 <<< lo

/-- R format (rule R102). -/
def encodeR (funct7 : BitVec 7) (rs2 rs1 : RegIdx) (funct3 : BitVec 3) (rd : RegIdx) (opcode : BitVec 7) : Word :=
  put funct7 25 ||| put rs2 20 ||| put rs1 15 ||| put funct3 12 ||| put rd 7 ||| put opcode 0

/-- I format (rule R102). -/
def encodeI (imm : BitVec 12) (rs1 : RegIdx) (funct3 : BitVec 3) (rd : RegIdx) (opcode : BitVec 7) : Word :=
  put imm 20 ||| put rs1 15 ||| put funct3 12 ||| put rd 7 ||| put opcode 0

/-- S format (rules R102, R104). -/
def encodeS (imm : BitVec 12) (rs2 rs1 : RegIdx) (funct3 : BitVec 3) (opcode : BitVec 7) : Word :=
  put (imm.extractLsb' 5 7) 25 ||| put rs2 20 ||| put rs1 15 ||| put funct3 12 ||| put (imm.extractLsb' 0 5) 7
    ||| put opcode 0

/-- B format (rules R102, R105). -/
def encodeB (imm : BitVec 13) (rs2 rs1 : RegIdx) (funct3 : BitVec 3) (opcode : BitVec 7) : Word :=
  put (imm.extractLsb' 12 1) 31 ||| put (imm.extractLsb' 5 6) 25 ||| put rs2 20 ||| put rs1 15 ||| put funct3 12
    ||| put (imm.extractLsb' 1 4) 8 ||| put (imm.extractLsb' 11 1) 7 ||| put opcode 0

/-- U format (rules R102, R106). -/
def encodeU (imm : BitVec 20) (rd : RegIdx) (opcode : BitVec 7) : Word := put imm 12 ||| put rd 7 ||| put opcode 0

/-- J format (rules R102, R107). -/
def encodeJ (imm : BitVec 21) (rd : RegIdx) (opcode : BitVec 7) : Word :=
  put (imm.extractLsb' 20 1) 31 ||| put (imm.extractLsb' 1 10) 21 ||| put (imm.extractLsb' 11 1) 20
    ||| put (imm.extractLsb' 12 8) 12 ||| put rd 7 ||| put opcode 0

/-- The atomic use of the R format (rule R102), with the canonical `funct3 = 010` (rule R118). -/
def encodeAtomic (funct5 : BitVec 5) (aq rl : BitVec 1) (rs2 rs1 rd : RegIdx) : Word :=
  put funct5 27 ||| put aq 26 ||| put rl 25 ||| put rs2 20 ||| put rs1 15 ||| put 2#3 12 ||| put rd 7 ||| put 0x2F#7 0

/-- `FENCE` with its sets (rule R116); `rs1`, `funct3` and `rd` are 0. -/
def encodeFence (fm pred succ : BitVec 4) : Word := put fm 28 ||| put pred 24 ||| put succ 20 ||| put 0x0F#7 0

/-- The canonical word of an instruction (rules R102 to R118); the fields a row ignores are encoded as 0. -/
def encode : Instr → Word
  | .lui rd imm => encodeU imm rd 0x37#7
  | .auipc rd imm => encodeU imm rd 0x17#7
  | .jal rd offset => encodeJ offset rd 0x6F#7
  | .jalr rd rs1 imm => encodeI imm rs1 0#3 rd 0x67#7
  | .beq rs1 rs2 offset => encodeB offset rs2 rs1 0#3 0x63#7
  | .bne rs1 rs2 offset => encodeB offset rs2 rs1 1#3 0x63#7
  | .blt rs1 rs2 offset => encodeB offset rs2 rs1 4#3 0x63#7
  | .bge rs1 rs2 offset => encodeB offset rs2 rs1 5#3 0x63#7
  | .bltu rs1 rs2 offset => encodeB offset rs2 rs1 6#3 0x63#7
  | .bgeu rs1 rs2 offset => encodeB offset rs2 rs1 7#3 0x63#7
  | .lb rd rs1 imm => encodeI imm rs1 0#3 rd 0x03#7
  | .lh rd rs1 imm => encodeI imm rs1 1#3 rd 0x03#7
  | .lw rd rs1 imm => encodeI imm rs1 2#3 rd 0x03#7
  | .lbu rd rs1 imm => encodeI imm rs1 4#3 rd 0x03#7
  | .lhu rd rs1 imm => encodeI imm rs1 5#3 rd 0x03#7
  | .sb rs2 rs1 imm => encodeS imm rs2 rs1 0#3 0x23#7
  | .sh rs2 rs1 imm => encodeS imm rs2 rs1 1#3 0x23#7
  | .sw rs2 rs1 imm => encodeS imm rs2 rs1 2#3 0x23#7
  | .addi rd rs1 imm => encodeI imm rs1 0#3 rd 0x13#7
  | .slti rd rs1 imm => encodeI imm rs1 2#3 rd 0x13#7
  | .sltiu rd rs1 imm => encodeI imm rs1 3#3 rd 0x13#7
  | .xori rd rs1 imm => encodeI imm rs1 4#3 rd 0x13#7
  | .ori rd rs1 imm => encodeI imm rs1 6#3 rd 0x13#7
  | .andi rd rs1 imm => encodeI imm rs1 7#3 rd 0x13#7
  | .slli rd rs1 shamt => encodeR 0x00#7 shamt rs1 1#3 rd 0x13#7
  | .srli rd rs1 shamt => encodeR 0x00#7 shamt rs1 5#3 rd 0x13#7
  | .srai rd rs1 shamt => encodeR 0x20#7 shamt rs1 5#3 rd 0x13#7
  | .add rd rs1 rs2 => encodeR 0x00#7 rs2 rs1 0#3 rd 0x33#7
  | .sub rd rs1 rs2 => encodeR 0x20#7 rs2 rs1 0#3 rd 0x33#7
  | .sll rd rs1 rs2 => encodeR 0x00#7 rs2 rs1 1#3 rd 0x33#7
  | .slt rd rs1 rs2 => encodeR 0x00#7 rs2 rs1 2#3 rd 0x33#7
  | .sltu rd rs1 rs2 => encodeR 0x00#7 rs2 rs1 3#3 rd 0x33#7
  | .xor rd rs1 rs2 => encodeR 0x00#7 rs2 rs1 4#3 rd 0x33#7
  | .srl rd rs1 rs2 => encodeR 0x00#7 rs2 rs1 5#3 rd 0x33#7
  | .sra rd rs1 rs2 => encodeR 0x20#7 rs2 rs1 5#3 rd 0x33#7
  | .or rd rs1 rs2 => encodeR 0x00#7 rs2 rs1 6#3 rd 0x33#7
  | .and rd rs1 rs2 => encodeR 0x00#7 rs2 rs1 7#3 rd 0x33#7
  | .mul rd rs1 rs2 => encodeR 0x01#7 rs2 rs1 0#3 rd 0x33#7
  | .mulh rd rs1 rs2 => encodeR 0x01#7 rs2 rs1 1#3 rd 0x33#7
  | .mulhsu rd rs1 rs2 => encodeR 0x01#7 rs2 rs1 2#3 rd 0x33#7
  | .mulhu rd rs1 rs2 => encodeR 0x01#7 rs2 rs1 3#3 rd 0x33#7
  | .div rd rs1 rs2 => encodeR 0x01#7 rs2 rs1 4#3 rd 0x33#7
  | .divu rd rs1 rs2 => encodeR 0x01#7 rs2 rs1 5#3 rd 0x33#7
  | .rem rd rs1 rs2 => encodeR 0x01#7 rs2 rs1 6#3 rd 0x33#7
  | .remu rd rs1 rs2 => encodeR 0x01#7 rs2 rs1 7#3 rd 0x33#7
  | .fence fm pred succ => encodeFence fm pred succ
  | .fenceI => encodeI 0#12 0#5 1#3 0#5 0x0F#7
  | .csrrw rd csr rs1 => encodeI csr rs1 1#3 rd 0x73#7
  | .csrrs rd csr rs1 => encodeI csr rs1 2#3 rd 0x73#7
  | .csrrc rd csr rs1 => encodeI csr rs1 3#3 rd 0x73#7
  | .csrrwi rd csr uimm => encodeI csr uimm 5#3 rd 0x73#7
  | .csrrsi rd csr uimm => encodeI csr uimm 6#3 rd 0x73#7
  | .csrrci rd csr uimm => encodeI csr uimm 7#3 rd 0x73#7
  | .ecall => encodeI 0x000#12 0#5 0#3 0#5 0x73#7
  | .ebreak => encodeI 0x001#12 0#5 0#3 0#5 0x73#7
  | .wfi => encodeI 0x105#12 0#5 0#3 0#5 0x73#7
  | .mret => encodeI 0x302#12 0#5 0#3 0#5 0x73#7
  | .lrW rd rs1 aq rl => encodeAtomic 0b00010#5 aq rl 0#5 rs1 rd
  | .scW rd rs2 rs1 aq rl => encodeAtomic 0b00011#5 aq rl rs2 rs1 rd
  | .amoswapW rd rs2 rs1 aq rl => encodeAtomic 0b00001#5 aq rl rs2 rs1 rd
  | .amoaddW rd rs2 rs1 aq rl => encodeAtomic 0b00000#5 aq rl rs2 rs1 rd
  | .amoxorW rd rs2 rs1 aq rl => encodeAtomic 0b00100#5 aq rl rs2 rs1 rd
  | .amoandW rd rs2 rs1 aq rl => encodeAtomic 0b01100#5 aq rl rs2 rs1 rd
  | .amoorW rd rs2 rs1 aq rl => encodeAtomic 0b01000#5 aq rl rs2 rs1 rd
  | .amominW rd rs2 rs1 aq rl => encodeAtomic 0b10000#5 aq rl rs2 rs1 rd
  | .amomaxW rd rs2 rs1 aq rl => encodeAtomic 0b10100#5 aq rl rs2 rs1 rd
  | .amominuW rd rs2 rs1 aq rl => encodeAtomic 0b11000#5 aq rl rs2 rs1 rd
  | .amomaxuW rd rs2 rs1 aq rl => encodeAtomic 0b11100#5 aq rl rs2 rs1 rd
  | .fenceOther funct3 => encodeI 0#12 0#5 funct3 0#5 0x0F#7
  | .loadRsv rd rs1 imm funct3 => encodeI imm rs1 funct3 rd 0x03#7
  | .storeRsv rs2 rs1 imm funct3 => encodeS imm rs2 rs1 funct3 0x23#7
  | .amoRsv rs1 funct5 => encodeAtomic funct5 0#1 0#1 0#5 rs1 0#5
  | .illegal word => word

end Sys2Proof
end

