-- ==== Sys2Proof/Machine/Stages.lean ====
section
/-! DEFINITION. The stages of a step in their order (40_step.md rule R140): timer, sleep gate, interrupt gate, count, fetch,
decode, execute. `execute` is a parameter; Machine/Step.lean gives it `exec`. -/

namespace Sys2Proof.Machine

/-- The match condition (rule R342): MATCH is not 0 and TIMER is above it, as 64-bit unsigned numbers. -/
def State.matchHolds (s : State) : Bool := s.timermatch != 0#64 && s.timermatch.ult s.timer

/-- Stage 1a (rules R341, R342): the timer advances, the pending bit is recomputed, a match wakes the hart. -/
def timerStage (elapsed : Word) (s : State) : State :=
  let t := s.setTimer (s.timer + elapsed.setWidth 64)
  { t with mip := mipWithTimer t.mip t.matchHolds, sleep := t.sleep && !t.matchHolds }

/-- Stage 1b, the interrupt gate (rule R345). -/
def State.interruptReady (s : State) : Bool := mtipBit s.mip && mtieBit s.mie && mieBit s.mstatus

/-- The timer interrupt is taken (rule R351): `mepc` is the instruction not executed, the trap value is 0. -/
def takeInterrupt (s : State) : State := enterTrap timerInterruptCause 0#32 s

/-- CYCLE counts an attempted instruction (rule R37). -/
def countCycle (s : State) : State := s.setCycle (s.cycle + 1#64)

/-- Fetch (rules R145, R68): the range of the offset first, then its alignment; a value read is four bytes, little-endian. -/
def fetch (s : State) : Except Exception Word :=
  if s.params.memLen.toNat ≤ (s.off s.pc).toNat then .error .instructionAccessFault
  else if (s.off s.pc).extractLsb' 0 2 ≠ 0#2 then .error .instructionAddressMisaligned
  else .ok (s.read32 s.pc)

/-- Stages 3 and 4 (rules R140, R145, R146): a fetch exception reports the pc; a fetched word is decoded and executed. -/
def attempt (execute : Instr → State → Result) (s : State) : Result :=
  match fetch s with
  | .error e => raise e s.pc s
  | .ok w => execute (decode w) s

/-- `Step(elapsed)` (rule R140), for parameters that meet the constraints of rule R12 (U2; log 1). -/
def stages (execute : Instr → State → Result) (elapsed : Word) (s : State) : Result :=
  if s.params.wf then
    let t := timerStage elapsed s
    if t.sleep then .next { t with outcome := .sleeping }
    else if t.interruptReady then .next (takeInterrupt t)
    else attempt execute (countCycle t)
  else .refused .parametersOutsideConstraints

/-- The `elapsed` argument of this step, and the state with it consumed: the oldest the host has fixed, else a free value
(log 3). -/
def drawElapsed (s : State) : Word × State :=
  match s.elapsedQueue with
  | e :: rest => (e, { s with elapsedQueue := rest })
  | [] => (Config.freeElapsed s.elapsedDraws, { s with elapsedDraws := s.elapsedDraws + 1 })

end Sys2Proof.Machine
end

