-- ==== Sys2Proof/Machine/Step.lean ====
section
/-! DEFINITION. One step of the machine: the stages of rule R140 around `exec`, with the host's `elapsed` as an argument
(`stepWith`) or taken from the state (`step`). -/

namespace Sys2Proof.Machine

/-- `Step(state, elapsed)` (rules R8, R140). -/
def stepWith (elapsed : Word) (s : State) : Host.Outcome State Fault Refusal := stages exec elapsed s

/-- One step, with the `elapsed` the state holds for it (log 3). -/
def step (s : State) : Host.Outcome State Fault Refusal := stepWith (drawElapsed s).1 (drawElapsed s).2

/-- `s` with the instruction of these bits stored at the pc, little-endian. It stands for the host's loading of an image
(log 16); from reset the very next step fetches it, since the reset pc lies in the buffer and the hart is awake with
interrupts masked. -/
def State.withFetchWord (s : State) (nbits w : Nat) : State := s.write32 s.pc (BitVec.ofNat 32 (w % 2 ^ nbits))

end Sys2Proof.Machine
end

