-- ==== Sys2Proof/OpcodeTable.lean ====
section
/-! DEFINITION. spec/opcode_table.json as data: mnemonic, mask and match of its 73 rows in the table's order, and the row of
each constructor. The decoder does not use it; claims compare the decoder with it (rule R146). -/

namespace Sys2Proof

/-- One row: a word belongs to it when `ir & mask = match` (rule R146). -/
structure Row where
  mnemonic : String
  mask : Word
  pattern : Word
  deriving DecidableEq, Repr

/-- `ir & mask = match`. -/
def Row.covers (r : Row) (w : Word) : Bool := w &&& r.mask == r.pattern

/-- LUI to BGEU. -/
def tableUpperJumpBranch : List Row :=
  [⟨"LUI", 0x0000007F#32, 0x00000037#32⟩,
   ⟨"AUIPC", 0x0000007F#32, 0x00000017#32⟩,
   ⟨"JAL", 0x0000007F#32, 0x0000006F#32⟩,
   ⟨"JALR", 0x0000007F#32, 0x00000067#32⟩,
   ⟨"BEQ", 0x0000707F#32, 0x00000063#32⟩,
   ⟨"BNE", 0x0000707F#32, 0x00001063#32⟩,
   ⟨"BLT", 0x0000707F#32, 0x00004063#32⟩,
   ⟨"BGE", 0x0000707F#32, 0x00005063#32⟩,
   ⟨"BLTU", 0x0000707F#32, 0x00006063#32⟩,
   ⟨"BGEU", 0x0000707F#32, 0x00007063#32⟩]

/-- LB to SW. -/
def tableLoadStore : List Row :=
  [⟨"LB", 0x0000707F#32, 0x00000003#32⟩,
   ⟨"LH", 0x0000707F#32, 0x00001003#32⟩,
   ⟨"LW", 0x0000707F#32, 0x00002003#32⟩,
   ⟨"LBU", 0x0000707F#32, 0x00004003#32⟩,
   ⟨"LHU", 0x0000707F#32, 0x00005003#32⟩,
   ⟨"SB", 0x0000707F#32, 0x00000023#32⟩,
   ⟨"SH", 0x0000707F#32, 0x00001023#32⟩,
   ⟨"SW", 0x0000707F#32, 0x00002023#32⟩]

/-- ADDI to SRAI. -/
def tableOpImm : List Row :=
  [⟨"ADDI", 0x0000707F#32, 0x00000013#32⟩,
   ⟨"SLTI", 0x0000707F#32, 0x00002013#32⟩,
   ⟨"SLTIU", 0x0000707F#32, 0x00003013#32⟩,
   ⟨"XORI", 0x0000707F#32, 0x00004013#32⟩,
   ⟨"ORI", 0x0000707F#32, 0x00006013#32⟩,
   ⟨"ANDI", 0x0000707F#32, 0x00007013#32⟩,
   ⟨"SLLI", 0x0000707F#32, 0x00001013#32⟩,
   ⟨"SRLI", 0x4000707F#32, 0x00005013#32⟩,
   ⟨"SRAI", 0x4000707F#32, 0x40005013#32⟩]

/-- ADD to AND. -/
def tableOp : List Row :=
  [⟨"ADD", 0x4200707F#32, 0x00000033#32⟩,
   ⟨"SUB", 0x4200707F#32, 0x40000033#32⟩,
   ⟨"SLL", 0x0200707F#32, 0x00001033#32⟩,
   ⟨"SLT", 0x0200707F#32, 0x00002033#32⟩,
   ⟨"SLTU", 0x0200707F#32, 0x00003033#32⟩,
   ⟨"XOR", 0x0200707F#32, 0x00004033#32⟩,
   ⟨"SRL", 0x4200707F#32, 0x00005033#32⟩,
   ⟨"SRA", 0x4200707F#32, 0x40005033#32⟩,
   ⟨"OR", 0x0200707F#32, 0x00006033#32⟩,
   ⟨"AND", 0x0200707F#32, 0x00007033#32⟩]

/-- MUL to REMU. -/
def tableMul : List Row :=
  [⟨"MUL", 0x0200707F#32, 0x02000033#32⟩,
   ⟨"MULH", 0x0200707F#32, 0x02001033#32⟩,
   ⟨"MULHSU", 0x0200707F#32, 0x02002033#32⟩,
   ⟨"MULHU", 0x0200707F#32, 0x02003033#32⟩,
   ⟨"DIV", 0x0200707F#32, 0x02004033#32⟩,
   ⟨"DIVU", 0x0200707F#32, 0x02005033#32⟩,
   ⟨"REM", 0x0200707F#32, 0x02006033#32⟩,
   ⟨"REMU", 0x0200707F#32, 0x02007033#32⟩]

/-- FENCE to MRET. -/
def tableFenceSystem : List Row :=
  [⟨"FENCE", 0x0000707F#32, 0x0000000F#32⟩,
   ⟨"FENCE.I", 0x0000707F#32, 0x0000100F#32⟩,
   ⟨"CSRRW", 0x0000707F#32, 0x00001073#32⟩,
   ⟨"CSRRS", 0x0000707F#32, 0x00002073#32⟩,
   ⟨"CSRRC", 0x0000707F#32, 0x00003073#32⟩,
   ⟨"CSRRWI", 0x0000707F#32, 0x00005073#32⟩,
   ⟨"CSRRSI", 0x0000707F#32, 0x00006073#32⟩,
   ⟨"CSRRCI", 0x0000707F#32, 0x00007073#32⟩,
   ⟨"ECALL", 0xFFF0707F#32, 0x00000073#32⟩,
   ⟨"EBREAK", 0xFFF0707F#32, 0x00100073#32⟩,
   ⟨"WFI", 0xFFF0707F#32, 0x10500073#32⟩,
   ⟨"MRET", 0xFFF0707F#32, 0x30200073#32⟩]

/-- LR.W to AMOMAXU.W. -/
def tableAtomic : List Row :=
  [⟨"LR.W", 0xF800007F#32, 0x1000002F#32⟩,
   ⟨"SC.W", 0xF800007F#32, 0x1800002F#32⟩,
   ⟨"AMOSWAP.W", 0xF800007F#32, 0x0800002F#32⟩,
   ⟨"AMOADD.W", 0xF800007F#32, 0x0000002F#32⟩,
   ⟨"AMOXOR.W", 0xF800007F#32, 0x2000002F#32⟩,
   ⟨"AMOAND.W", 0xF800007F#32, 0x6000002F#32⟩,
   ⟨"AMOOR.W", 0xF800007F#32, 0x4000002F#32⟩,
   ⟨"AMOMIN.W", 0xF800007F#32, 0x8000002F#32⟩,
   ⟨"AMOMAX.W", 0xF800007F#32, 0xA000002F#32⟩,
   ⟨"AMOMINU.W", 0xF800007F#32, 0xC000002F#32⟩,
   ⟨"AMOMAXU.W", 0xF800007F#32, 0xE000002F#32⟩]

/-- the five catch-all rows, FENCE.OTHER to ILLEGAL. -/
def tableCatchAll : List Row :=
  [⟨"FENCE.OTHER", 0x0000007F#32, 0x0000000F#32⟩,
   ⟨"LOAD.RSV", 0x0000007F#32, 0x00000003#32⟩,
   ⟨"STORE.RSV", 0x0000007F#32, 0x00000023#32⟩,
   ⟨"AMO.RSV", 0x0000007F#32, 0x0000002F#32⟩,
   ⟨"ILLEGAL", 0x00000000#32, 0x00000000#32⟩]

/-- The table, searched in order (rule R119). -/
def opcodeTable : List Row :=
  tableUpperJumpBranch ++ tableLoadStore ++ tableOpImm ++ tableOp ++
    tableMul ++ tableFenceSystem ++ tableAtomic ++ tableCatchAll

/-- The position in the table of the row an instruction stands for (rule R119). -/
def Instr.rowNumber : Instr → Nat
  | .lui _ _ => 0
  | .auipc _ _ => 1
  | .jal _ _ => 2
  | .jalr _ _ _ => 3
  | .beq _ _ _ => 4
  | .bne _ _ _ => 5
  | .blt _ _ _ => 6
  | .bge _ _ _ => 7
  | .bltu _ _ _ => 8
  | .bgeu _ _ _ => 9
  | .lb _ _ _ => 10
  | .lh _ _ _ => 11
  | .lw _ _ _ => 12
  | .lbu _ _ _ => 13
  | .lhu _ _ _ => 14
  | .sb _ _ _ => 15
  | .sh _ _ _ => 16
  | .sw _ _ _ => 17
  | .addi _ _ _ => 18
  | .slti _ _ _ => 19
  | .sltiu _ _ _ => 20
  | .xori _ _ _ => 21
  | .ori _ _ _ => 22
  | .andi _ _ _ => 23
  | .slli _ _ _ => 24
  | .srli _ _ _ => 25
  | .srai _ _ _ => 26
  | .add _ _ _ => 27
  | .sub _ _ _ => 28
  | .sll _ _ _ => 29
  | .slt _ _ _ => 30
  | .sltu _ _ _ => 31
  | .xor _ _ _ => 32
  | .srl _ _ _ => 33
  | .sra _ _ _ => 34
  | .or _ _ _ => 35
  | .and _ _ _ => 36
  | .mul _ _ _ => 37
  | .mulh _ _ _ => 38
  | .mulhsu _ _ _ => 39
  | .mulhu _ _ _ => 40
  | .div _ _ _ => 41
  | .divu _ _ _ => 42
  | .rem _ _ _ => 43
  | .remu _ _ _ => 44
  | .fence _ _ _ => 45
  | .fenceI => 46
  | .csrrw _ _ _ => 47
  | .csrrs _ _ _ => 48
  | .csrrc _ _ _ => 49
  | .csrrwi _ _ _ => 50
  | .csrrsi _ _ _ => 51
  | .csrrci _ _ _ => 52
  | .ecall => 53
  | .ebreak => 54
  | .wfi => 55
  | .mret => 56
  | .lrW _ _ _ _ => 57
  | .scW _ _ _ _ _ => 58
  | .amoswapW _ _ _ _ _ => 59
  | .amoaddW _ _ _ _ _ => 60
  | .amoxorW _ _ _ _ _ => 61
  | .amoandW _ _ _ _ _ => 62
  | .amoorW _ _ _ _ _ => 63
  | .amominW _ _ _ _ _ => 64
  | .amomaxW _ _ _ _ _ => 65
  | .amominuW _ _ _ _ _ => 66
  | .amomaxuW _ _ _ _ _ => 67
  | .fenceOther _ => 68
  | .loadRsv _ _ _ _ => 69
  | .storeRsv _ _ _ _ => 70
  | .amoRsv _ _ => 71
  | .illegal _ => 72

/-- The row of an instruction; `ILLEGAL` stands for every number past the table. -/
def Instr.row (i : Instr) : Row := opcodeTable.getD i.rowNumber ⟨"ILLEGAL", 0#32, 0#32⟩

end Sys2Proof
end

