-- ==== Sys2Proof/Safety.lean ====
section
/-! DEFINITION. The terms the claims are stated in: what an instruction leaves unchanged, what completing, storing and
trapping mean, byte sums, the invariant of every step, and the conditions of a step in the spec's own arithmetic. None of it
is used by the machine. -/

namespace Sys2Proof.Machine

/-! ## Frames -/

/-- Every state word but the registers, the pc, memory and the outcome is in `t` what it is in `s`. A claim about an
instruction that writes one of these words compares `t` with `s` after that one write. -/
structure Kept (s t : State) : Prop where
  params : t.params = s.params
  mstatus : t.mstatus = s.mstatus
  cyclel : t.cyclel = s.cyclel
  cycleh : t.cycleh = s.cycleh
  timerl : t.timerl = s.timerl
  timerh : t.timerh = s.timerh
  timermatchl : t.timermatchl = s.timermatchl
  timermatchh : t.timermatchh = s.timermatchh
  mscratch : t.mscratch = s.mscratch
  mtvec : t.mtvec = s.mtvec
  mie : t.mie = s.mie
  mip : t.mip = s.mip
  mepc : t.mepc = s.mepc
  mtval : t.mtval = s.mtval
  mcause : t.mcause = s.mcause
  priv : t.priv = s.priv
  sleep : t.sleep = s.sleep
  res : t.res = s.res
  resBroken : t.resBroken = s.resBroken
  elapsedQueue : t.elapsedQueue = s.elapsedQueue
  elapsedDraws : t.elapsedDraws = s.elapsedDraws

/-- Every general register reads as before. -/
def RegsSame (s t : State) : Prop := ∀ q : RegIdx, t.reg q = s.reg q

/-- `rd` holds `v` unless it is `x0`, `x0` reads 0, and every other register reads as before (rule R20). -/
def RegsAre (s t : State) (rd : RegIdx) (v : Word) : Prop :=
  t.reg 0#5 = 0#32 ∧ (rd ≠ 0#5 → t.reg rd = v) ∧ ∀ q, q ≠ rd → t.reg q = s.reg q

/-- Every byte of memory reads as before. -/
def MemSame (s t : State) : Prop := ∀ b : Nat, t.mem.read b = s.mem.read b

/-- The address of byte `k` of an access at `a`. -/
def byteAddr (a : Word) (k : Nat) : Nat := (a + BitVec.ofNat 32 k).toNat

/-- The `n` bytes at `a` hold `v`, least significant byte lowest, and every other byte reads as before (rules R16, R60). -/
def MemStored (s t : State) (a : Word) (n : Nat) (v : Word) : Prop :=
  (∀ k, k < n → t.mem.read (byteAddr a k) = v.extractLsb' (8 * k) 8) ∧
    ∀ b, (∀ k, k < n → b ≠ byteAddr a k) → t.mem.read b = s.mem.read b

/-! ## How an instruction ends -/

/-- `x[rd] <- v ; pc <- target`, the step returns `Continue`, and nothing else changes. -/
def Commits (s t : State) (rd : RegIdx) (v target : Word) : Prop :=
  RegsAre s t rd v ∧ t.pc = target ∧ t.outcome = .continued ∧ Kept s t ∧ MemSame s t

/-- `x[rd] <- v ; pc <- pc + 4`, the step returns `Continue`, and nothing else changes (rule R148). -/
def Completes (s t : State) (rd : RegIdx) (v : Word) : Prop := Commits s t rd v (s.pc + 4#32)

/-- `pc <- target`, the step returns `Continue`, and nothing else changes: no register is written. -/
def GoesTo (s t : State) (target : Word) : Prop :=
  RegsSame s t ∧ t.pc = target ∧ t.outcome = .continued ∧ Kept s t ∧ MemSame s t

/-- Trap entry with this cause and trap value (rule R350), with rule R350's own formula for `mstatus`. -/
def Traps (s t : State) (cause tval : Word) : Prop :=
  RegsSame s t ∧ MemSame s t ∧ t.pc = s.mtvec ∧ t.outcome = .continued ∧
    Kept { s with
      mcause := cause
      mtval := tval
      mepc := s.pc
      mstatus := (((s.mstatus >>> 3) &&& 1#32) <<< 7) ||| (s.priv.setWidth 32 <<< 11)
      priv := 3#2 } t

/-! ## Memory -/

/-- `InRam(a)`, as rule R66 writes it. -/
def InRam (s : State) (a : Word) : Prop := (a - s.params.memBase).toNat < s.params.memLen.toNat - 3

/-- The `n` bytes at `a` as an unsigned number, least significant byte lowest (rules R16, R60). -/
def bytesAt (s : State) (a : Word) : Nat → Nat
  | 0 => 0
  | n + 1 => bytesAt s a n + (s.mem.read (byteAddr a n)).toNat * 256 ^ n

/-- The two's-complement reading of the low `bits` bits (rule R14). -/
def signedOf (bits x : Nat) : Int := if x < 2 ^ (bits - 1) then (x : Int) else (x : Int) - 2 ^ bits

/-- Whether a write of `n` bytes at `a` makes a later `SC.W` fail: only under `STORE_BREAKS_RESERVATION`, and only if a
byte written is a byte of the reserved word, in buffer offsets (rule R316; log 9). -/
def Breaks (s : State) (a : Word) (n : Nat) : Prop :=
  s.params.storeBreaksReservation = true ∧
    ∃ i < n, ∃ j < 4, (a - s.params.memBase).toNat + i = s.res.toNat + j

/-- `x[rd] <- w`, the `n` bytes at `a` become `v`, `pc <- pc + 4`, the step returns `Continue`, and nothing else changes but
what rule R316 says of the reservation. -/
def StoresAndWrites (s t : State) (rd : RegIdx) (w a : Word) (n : Nat) (v : Word) : Prop :=
  RegsAre s t rd w ∧ MemStored s t a n v ∧ t.pc = s.pc + 4#32 ∧ t.outcome = .continued ∧
    Kept { s with resBroken := t.resBroken } t ∧ (t.resBroken = true ↔ s.resBroken = true ∨ Breaks s a n)

/-- A store: as `StoresAndWrites`, and no register changes. -/
def Stores (s t : State) (a : Word) (n : Nat) (v : Word) : Prop :=
  RegsSame s t ∧ MemStored s t a n v ∧ t.pc = s.pc + 4#32 ∧ t.outcome = .continued ∧
    Kept { s with resBroken := t.resBroken } t ∧ (t.resBroken = true ↔ s.resBroken = true ∨ Breaks s a n)

/-! ## Instructions as syntax -/

/-- Every word with `ir & mask = match` decodes to `f` of that word. -/
def DecodesAs (mask pattern : Word) (f : Word → Instr) : Prop := ∀ w : Word, w &&& mask = pattern → decode w = f w

/-- The register an instruction may write (rule R22); `none` for those that write none. -/
def destination : Instr → Option RegIdx
  | .lui rd _ | .auipc rd _ | .jal rd _ | .jalr rd _ _ => some rd
  | .beq _ _ _ | .bne _ _ _ | .blt _ _ _ | .bge _ _ _ | .bltu _ _ _ | .bgeu _ _ _ => none
  | .lb rd _ _ | .lh rd _ _ | .lw rd _ _ | .lbu rd _ _ | .lhu rd _ _ | .loadRsv rd _ _ _ => some rd
  | .sb _ _ _ | .sh _ _ _ | .sw _ _ _ | .storeRsv _ _ _ _ => none
  | .addi rd _ _ | .slti rd _ _ | .sltiu rd _ _ | .xori rd _ _ | .ori rd _ _ | .andi rd _ _ => some rd
  | .slli rd _ _ | .srli rd _ _ | .srai rd _ _ => some rd
  | .add rd _ _ | .sub rd _ _ | .sll rd _ _ | .slt rd _ _ | .sltu rd _ _ => some rd
  | .xor rd _ _ | .srl rd _ _ | .sra rd _ _ | .or rd _ _ | .and rd _ _ => some rd
  | .mul rd _ _ | .mulh rd _ _ | .mulhsu rd _ _ | .mulhu rd _ _ => some rd
  | .div rd _ _ | .divu rd _ _ | .rem rd _ _ | .remu rd _ _ => some rd
  | .fence _ _ _ | .fenceI | .fenceOther _ => none
  | .csrrw rd _ _ | .csrrs rd _ _ | .csrrc rd _ _ | .csrrwi rd _ _ | .csrrsi rd _ _ | .csrrci rd _ _ => some rd
  | .ecall | .ebreak | .wfi | .mret | .illegal _ | .amoRsv _ _ => none
  | .lrW rd _ _ _ | .scW rd _ _ _ _ | .amoswapW rd _ _ _ _ | .amoaddW rd _ _ _ _ => some rd
  | .amoxorW rd _ _ _ _ | .amoandW rd _ _ _ _ | .amoorW rd _ _ _ _ | .amominW rd _ _ _ _ => some rd
  | .amomaxW rd _ _ _ _ | .amominuW rd _ _ _ _ | .amomaxuW rd _ _ _ _ => some rd

/-- Where an instruction stores in the buffer and how many bytes, in the expressions its meaning uses; `none` if this
execution stores nothing there. -/
def storeRange (s : State) : Instr → Option (Word × Nat)
  | .sb _ rs1 imm => if s.inRam (s.effAddr rs1 imm) then some (s.effAddr rs1 imm, 1) else none
  | .sh _ rs1 imm => if s.inRam (s.effAddr rs1 imm) then some (s.effAddr rs1 imm, 2) else none
  | .sw _ rs1 imm => if s.inRam (s.effAddr rs1 imm) then some (s.effAddr rs1 imm, 4) else none
  | .scW _ _ rs1 _ _ => if s.inRam (s.reg rs1) && s.reserved (s.reg rs1) then some (s.reg rs1, 4) else none
  | .amoswapW _ _ rs1 _ _ | .amoaddW _ _ rs1 _ _ | .amoxorW _ _ rs1 _ _ | .amoandW _ _ rs1 _ _ | .amoorW _ _ rs1 _ _
  | .amominW _ _ rs1 _ _ | .amomaxW _ _ rs1 _ _ | .amominuW _ _ rs1 _ _ | .amomaxuW _ _ rs1 _ _ =>
    if s.inRam (s.reg rs1) then some (s.reg rs1, 4) else none
  | _ => none

/-- The six CSR instructions (rule R285). -/
def IsCsrInstr (i : Instr) : Prop :=
  ∃ rd csr r, i = .csrrw rd csr r ∨ i = .csrrs rd csr r ∨ i = .csrrc rd csr r ∨ i = .csrrwi rd csr r ∨
    i = .csrrsi rd csr r ∨ i = .csrrci rd csr r

/-- The words of the store opcode, with their data register and their displaced address (rule R200). -/
def IsStoreInstr (i : Instr) (rs2 rs1 : RegIdx) (imm : BitVec 12) : Prop :=
  i = .sb rs2 rs1 imm ∨ i = .sh rs2 rs1 imm ∨ i = .sw rs2 rs1 imm ∨ ∃ f, i = .storeRsv rs2 rs1 imm f

/-- The pc after an instruction that completes (rule R24 (a), (b), (d)): the target of a jump, a taken branch or `MRET`,
else `pc + 4`. -/
def nextPc (s : State) : Instr → Word
  | .jal _ offset => s.pc + offset.signExtend 32
  | .jalr _ rs1 imm => (s.reg rs1 + imm.signExtend 32) &&& ~~~(1#32)
  | .beq rs1 rs2 offset => if s.reg rs1 = s.reg rs2 then s.pc + offset.signExtend 32 else s.pc + 4#32
  | .bne rs1 rs2 offset => if s.reg rs1 ≠ s.reg rs2 then s.pc + offset.signExtend 32 else s.pc + 4#32
  | .blt rs1 rs2 offset => if (s.reg rs1).toInt < (s.reg rs2).toInt then s.pc + offset.signExtend 32 else s.pc + 4#32
  | .bge rs1 rs2 offset => if (s.reg rs2).toInt ≤ (s.reg rs1).toInt then s.pc + offset.signExtend 32 else s.pc + 4#32
  | .bltu rs1 rs2 offset => if (s.reg rs1).toNat < (s.reg rs2).toNat then s.pc + offset.signExtend 32 else s.pc + 4#32
  | .bgeu rs1 rs2 offset => if (s.reg rs2).toNat ≤ (s.reg rs1).toNat then s.pc + offset.signExtend 32 else s.pc + 4#32
  | .mret => s.mepc
  | _ => s.pc + 4#32

/-! ## Forms: what a rule of the spec says of one instruction of a shape -/

/-- Register form (rules R220, R260): the words of the row, and the result for every operand. -/
def RegisterForm (mask pattern : Word) (make : RegIdx → RegIdx → RegIdx → Instr) (result : Word → Word → Word) : Prop :=
  DecodesAs mask pattern (fun w => make (w.extractLsb' 7 5) (w.extractLsb' 15 5) (w.extractLsb' 20 5)) ∧
    ∀ (rd rs1 rs2 : RegIdx) (s : State), ∃ t, exec (make rd rs1 rs2) s = .next t ∧
      Completes s t rd (result (s.reg rs1) (s.reg rs2))

/-- Immediate form (rules R103, R220); `result` gets the sign-extended immediate as an integer. -/
def ImmediateForm (pattern : Word) (make : RegIdx → RegIdx → BitVec 12 → Instr) (result : Word → Int → Word) : Prop :=
  DecodesAs 0x0000707F#32 pattern (fun w => make (w.extractLsb' 7 5) (w.extractLsb' 15 5) (w.extractLsb' 20 12)) ∧
    ∀ (rd rs1 : RegIdx) (imm : BitVec 12) (s : State), ∃ t, exec (make rd rs1 imm) s = .next t ∧
      Completes s t rd (result (s.reg rs1) imm.toInt)

/-- Immediate shift (rules R108, R220). -/
def ShiftForm (mask pattern : Word) (make : RegIdx → RegIdx → BitVec 5 → Instr) (result : Word → Nat → Word) : Prop :=
  DecodesAs mask pattern (fun w => make (w.extractLsb' 7 5) (w.extractLsb' 15 5) (w.extractLsb' 20 5)) ∧
    ∀ (rd rs1 : RegIdx) (shamt : BitVec 5) (s : State), ∃ t, exec (make rd rs1 shamt) s = .next t ∧
      Completes s t rd (result (s.reg rs1) shamt.toNat)

/-- Branch (rule R172): to `pc + offset` if the comparison holds, else to `pc + 4`; no register is written. -/
def BranchForm (pattern : Word) (make : RegIdx → RegIdx → BitVec 13 → Instr) (cond : Word → Word → Prop) : Prop :=
  DecodesAs 0x0000707F#32 pattern (fun w => make (w.extractLsb' 15 5) (w.extractLsb' 20 5) (immBOf w)) ∧
    ∀ (rs1 rs2 : RegIdx) (offset : BitVec 13) (s : State),
      (cond (s.reg rs1) (s.reg rs2) →
          ∃ t, exec (make rs1 rs2 offset) s = .next t ∧ GoesTo s t (BitVec.ofInt 32 (s.pc.toInt + offset.toInt))) ∧
        (¬cond (s.reg rs1) (s.reg rs2) →
          ∃ t, exec (make rs1 rs2 offset) s = .next t ∧ GoesTo s t (s.pc + 4#32))

/-- The effective address of a load or store: base plus signed displacement, modulo 2^32 (rules R190, R200). -/
def displaced (base : Word) (imm : BitVec 12) : Word := BitVec.ofInt 32 (base.toInt + imm.toInt)

/-- A load inside the buffer: `width` bytes, least significant lowest, extended by `extend` (rule R190). -/
def LoadForm (make : RegIdx → RegIdx → BitVec 12 → Instr) (width : Nat) (extend : Nat → Word) : Prop :=
  ∀ (rd rs1 : RegIdx) (imm : BitVec 12) (s : State), InRam s (displaced (s.reg rs1) imm) →
    ∃ t, exec (make rd rs1 imm) s = .next t ∧
      Completes s t rd (extend (bytesAt s (displaced (s.reg rs1) imm) width))

/-- The next load inside the buffer, after a store inside it has left `t`: each byte it loads is the stored byte at that
address, if the store wrote there, else the byte that was there before (rules R76 (a), R148). -/
def LoadSees (store load : RegIdx → RegIdx → BitVec 12 → Instr) (stored loaded : Nat) : Prop :=
  ∀ (rs2 rs1 rd rb : RegIdx) (imm disp : BitVec 12) (s t : State), InRam s (displaced (s.reg rs1) imm) →
    InRam s (displaced (s.reg rb) disp) → rd ≠ 0#5 → exec (store rs2 rs1 imm) s = .next t →
    ∃ u, exec (load rd rb disp) t = .next u ∧ ∀ j < loaded,
      (∀ k < stored, byteAddr (displaced (s.reg rb) disp) j = byteAddr (displaced (s.reg rs1) imm) k →
          (u.reg rd).extractLsb' (8 * j) 8 = (s.reg rs2).extractLsb' (8 * k) 8) ∧
        ((∀ k < stored, byteAddr (displaced (s.reg rb) disp) j ≠ byteAddr (displaced (s.reg rs1) imm) k) →
          (u.reg rd).extractLsb' (8 * j) 8 = s.mem.read (byteAddr (displaced (s.reg rb) disp) j))

/-- `LoadSees` for each of the five loads. -/
def SeenByLoads (store : RegIdx → RegIdx → BitVec 12 → Instr) (stored : Nat) : Prop :=
  LoadSees store .lb stored 1 ∧ LoadSees store .lh stored 2 ∧ LoadSees store .lw stored 4 ∧
    LoadSees store .lbu stored 1 ∧ LoadSees store .lhu stored 2

/-- A load outside the buffer (rules R67, R72): the timer halves at their two addresses, else load access fault with the
address as trap value, whatever the width field. -/
def LoadOutsideForm (make : RegIdx → RegIdx → BitVec 12 → Instr) : Prop :=
  ∀ (rd rs1 : RegIdx) (imm : BitVec 12) (s : State) (a : Word), a = displaced (s.reg rs1) imm → ¬InRam s a →
    (a = 0x1100BFFC#32 → ∃ t, exec (make rd rs1 imm) s = .next t ∧ Completes s t rd s.timerh) ∧
      (a = 0x1100BFF8#32 → ∃ t, exec (make rd rs1 imm) s = .next t ∧ Completes s t rd s.timerl) ∧
      (a ≠ 0x1100BFFC#32 → a ≠ 0x1100BFF8#32 → ∃ t, exec (make rd rs1 imm) s = .next t ∧ Traps s t 5#32 a)

/-- A store inside the buffer: the low `width` bytes of `x[rs2]` (rule R200). -/
def StoreForm (make : RegIdx → RegIdx → BitVec 12 → Instr) (width : Nat) : Prop :=
  ∀ (rs2 rs1 : RegIdx) (imm : BitVec 12) (s : State), InRam s (displaced (s.reg rs1) imm) →
    ∃ t, exec (make rs2 rs1 imm) s = .next t ∧ Stores s t (displaced (s.reg rs1) imm) width (s.reg rs2)

/-- A store outside the buffer (rules R67, R73): the match halves at their two addresses, else store access fault with the
address as trap value, whatever the width field. The shutdown address has a form of its own. -/
def StoreOutsideForm (make : RegIdx → RegIdx → BitVec 12 → Instr) : Prop :=
  ∀ (rs2 rs1 : RegIdx) (imm : BitVec 12) (s : State) (a : Word), a = displaced (s.reg rs1) imm → ¬InRam s a →
    (a = 0x11004004#32 → ∃ t, exec (make rs2 rs1 imm) s = .next t ∧
        GoesTo { s with timermatchh := s.reg rs2 } t (s.pc + 4#32)) ∧
      (a = 0x11004000#32 → ∃ t, exec (make rs2 rs1 imm) s = .next t ∧
        GoesTo { s with timermatchl := s.reg rs2 } t (s.pc + 4#32)) ∧
      (a ≠ 0x11004004#32 → a ≠ 0x11004000#32 → a ≠ 0x11100000#32 →
        ∃ t, exec (make rs2 rs1 imm) s = .next t ∧ Traps s t 7#32 a)

/-- The shutdown store (rule R207), in a step that has counted the instruction of state `u`: the count stands only under
`CYCLE_ON_EARLY_EXIT`. -/
def ShutdownForm (make : RegIdx → RegIdx → BitVec 12 → Instr) : Prop :=
  ∀ (rs2 rs1 : RegIdx) (imm : BitVec 12) (u : State), displaced (u.reg rs1) imm = 0x11100000#32 →
    ¬InRam u 0x11100000#32 →
    ∃ t, exec (make rs2 rs1 imm) (countCycle u) = .next t ∧ t.outcome = .shutdown (u.reg rs2) ∧ t.pc = u.pc + 4#32 ∧
      RegsSame u t ∧ MemSame u t ∧ Kept (if u.params.cycleOnEarlyExit then countCycle u else u) t

/-- A CSR instruction (rules R285, R286): `rd` gets the old value, the new one is written to the CSR, nothing else changes. -/
def CsrForm (i : Instr) (rd : RegIdx) (csr : BitVec 12) (new : State → Word → Word) : Prop :=
  ∀ s : State, ∃ t, exec i s = .next t ∧
    Completes (s.csrWrite csr (new s (s.csrRead csr))) t rd (s.csrRead csr)

/-- An AMO inside the buffer (rule R310): the word becomes `f v old`, `rd` gets `old`. -/
def AmoForm (make : RegIdx → RegIdx → RegIdx → BitVec 1 → BitVec 1 → Instr) (f : Word → Word → Word) : Prop :=
  ∀ (rd rs2 rs1 : RegIdx) (aq rl : BitVec 1) (s : State), InRam s (s.reg rs1) →
    ∃ t, exec (make rd rs2 rs1 aq rl) s = .next t ∧
      StoresAndWrites s t rd (BitVec.ofNat 32 (bytesAt s (s.reg rs1) 4)) (s.reg rs1) 4
        (f (s.reg rs2) (BitVec.ofNat 32 (bytesAt s (s.reg rs1) 4)))

/-- An atomic outside the buffer (rules R310, R313): store access fault with the address as trap value, at a memory-mapped
address too. -/
def AtomicOutside (i : Instr) (rs1 : RegIdx) : Prop :=
  ∀ s : State, ¬InRam s (s.reg rs1) → ∃ t, exec i s = .next t ∧ Traps s t 7#32 (s.reg rs1)

/-! ## The step -/

/-- TIMER as a number (rule R38). -/
def timerNat (s : State) : Nat := s.timerh.toNat * 2 ^ 32 + s.timerl.toNat

/-- MATCH as a number (rule R39). -/
def matchNat (s : State) : Nat := s.timermatchh.toNat * 2 ^ 32 + s.timermatchl.toNat

/-- CYCLE as a number (rule R37). -/
def cycleNat (s : State) : Nat := s.cycleh.toNat * 2 ^ 32 + s.cyclel.toNat

/-- The match condition of a step (rule R342), on TIMER after the advance (rule R341). -/
def MatchAt (e : Word) (s : State) : Prop := matchNat s ≠ 0 ∧ matchNat s < (timerNat s + e.toNat) % 2 ^ 64

/-- The sleep gate is closed (rule R343): the hart sleeps and the match condition does not wake it. -/
def StaysAsleep (e : Word) (s : State) : Prop := s.sleep = true ∧ ¬MatchAt e s

/-- The interrupt gate is open (rule R345). -/
def InterruptDue (e : Word) (s : State) : Prop :=
  MatchAt e s ∧ s.mie.getLsbD 7 = true ∧ s.mstatus.getLsbD 3 = true

/-- The step reaches fetch (rule R140): parameters in the constraints, awake after the timer stage, gate shut. -/
def Attempts (e : Word) (s : State) : Prop := s.params.wf = true ∧ ¬StaysAsleep e s ∧ ¬InterruptDue e s

/-- The pc can be fetched (rules R145, R68): inside the buffer, offset a multiple of 4. -/
def Fetchable (s : State) : Prop :=
  (s.pc - s.params.memBase).toNat < s.params.memLen.toNat ∧ (s.pc - s.params.memBase).toNat % 4 = 0

/-- After a store inside the buffer, the next instruction's word holds the stored byte at each of its four addresses that
the store wrote (rule R79). -/
def FetchSees (make : RegIdx → RegIdx → BitVec 12 → Instr) (width : Nat) : Prop :=
  ∀ (rs2 rs1 : RegIdx) (imm : BitVec 12) (s t : State), InRam s (displaced (s.reg rs1) imm) →
    exec (make rs2 rs1 imm) s = .next t → Fetchable t → t.pc = s.pc + 4#32 ∧ ∃ w, fetch t = .ok w ∧
      ∀ k < width, ∀ j < 4, byteAddr t.pc j = byteAddr (displaced (s.reg rs1) imm) k →
        w.extractLsb' (8 * j) 8 = (s.reg rs2).extractLsb' (8 * k) 8

/-- The four bytes at the pc, lowest address first. -/
def pcBytes (s : State) : List Byte :=
  [s.mem.read (byteAddr s.pc 0), s.mem.read (byteAddr s.pc 1), s.mem.read (byteAddr s.pc 2), s.mem.read (byteAddr s.pc 3)]

/-- What every step keeps: the parameters meet the constraints of rule R12, slot 0 of the register file is 0 (rules R20,
R46), memory is in canonical form, and no byte outside the buffer is listed (rule R43). -/
structure Inv (s : State) : Prop where
  paramsWf : s.params.wf = true
  slotZero : s.regs[0] = 0#32
  memWf : s.mem.wf
  inBuffer : ∀ c ∈ s.mem, s.params.memBase.toNat ≤ c.1 ∧ c.1 < s.params.memBase.toNat + s.params.memLen.toNat

end Sys2Proof.Machine
end

