-- ==== Sys2Proof/Certificates/Slice0/Obligations.lean ====
section
/-! DEFINITION. The statements for the provers, from the numbered rules of spec/: encoding, then the instruction families in
the table's order, then the step, then the whole machine. A statement that rests on one of the spec's own decisions, or on a
choice of the model, says so. -/

open Sys2Proof Sys2Proof.Machine

/-! ## Encoding -/

/-- The decoder's reading of words spelled out by the spec's examples (rules R104 to R107, R116, R117, R312). -/
def Obligations.DecodeKnownWords : Prop :=
  decodeBytes [0xB7#8, 0x52#8, 0x34#8, 0x12#8] = .ok (.lui 5#5 0x12345#20, []) ∧
    decode 0xFFDFF06F#32 = .jal 0#5 (BitVec.ofInt 21 (-4)) ∧
    decode 0xFE208CE3#32 = .beq 1#5 2#5 (BitVec.ofInt 13 (-8)) ∧
    decode 0xFFC12283#32 = .lw 5#5 2#5 (BitVec.ofInt 12 (-4)) ∧
    decode 0xFE512E23#32 = .sw 5#5 2#5 (BitVec.ofInt 12 (-4)) ∧
    decode 0x41F0D293#32 = .srai 5#5 1#5 31#5 ∧
    decode 0x402082B3#32 = .sub 5#5 1#5 2#5 ∧
    decode 0x0220C2B3#32 = .div 5#5 1#5 2#5 ∧
    decode 0x0FF0000F#32 = .fence 0#4 15#4 15#4 ∧
    decode 0x340292F3#32 = .csrrw 5#5 0x340#12 5#5 ∧
    decode 0x30200073#32 = .mret ∧
    decode 0x188323AF#32 = .scW 7#5 8#5 6#5 0#1 0#1 ∧
    decode 0x00000000#32 = .illegal 0#32

/-- Decoding the encoder's word gives the instruction back, for every well-formed instruction and every operand. -/
def Obligations.DecodeOfEncodeIsIdentity : Prop := ∀ i : Instr, i.wf = true → decode (encode i) = i

/-- The decoder yields only well-formed instructions: even offsets, undefined selectors in the reserved rows, and in
`illegal` only words that match no other row. -/
def Obligations.DecodeGivesWellFormed : Prop := ∀ w : Word, (decode w).wf = true

/-- Rule R146 on the table of spec/opcode_table.json: a word decodes to the instruction of the first row it matches, and no
word matches two of the first 68 rows. -/
def Obligations.DecodeSelectsFirstMatchingRow : Prop :=
  (∀ w : Word, (decode w).row.covers w = true ∧
      ∀ r ∈ opcodeTable.take (decode w).rowNumber, r.covers w = false) ∧
    (opcodeTable.take 68).Pairwise fun r q => ∀ w : Word, ¬(r.covers w = true ∧ q.covers w = true)

/-- Rules R103 to R107: each immediate of a word as an integer sum of the word's bits, with its range, and the offsets of
branches and jumps even. -/
def Obligations.ImmediatesOfWord : Prop :=
  ∀ w : Word, let sign : Int := (w.toNat / 2 ^ 31 : Nat)
    (imm12 (imm12Of w)).toInt = (w.toNat / 2 ^ 20 % 2 ^ 11 : Nat) - 2 ^ 11 * sign ∧
      (imm12 (immSOf w)).toInt = (w.toNat / 2 ^ 25 % 2 ^ 6 * 2 ^ 5 + w.toNat / 2 ^ 7 % 2 ^ 5 : Nat) - 2 ^ 11 * sign ∧
      (immBranch (immBOf w)).toInt =
        (w.toNat / 2 ^ 7 % 2 * 2 ^ 11 + w.toNat / 2 ^ 25 % 2 ^ 6 * 2 ^ 5 + w.toNat / 2 ^ 8 % 2 ^ 4 * 2 : Nat)
          - 2 ^ 12 * sign ∧
      (immUpper (immUOf w)).toNat = w.toNat / 2 ^ 12 * 2 ^ 12 ∧
      (immJump (immJOf w)).toInt =
        (w.toNat / 2 ^ 12 % 2 ^ 8 * 2 ^ 12 + w.toNat / 2 ^ 20 % 2 * 2 ^ 11 + w.toNat / 2 ^ 21 % 2 ^ 10 * 2 : Nat)
          - 2 ^ 20 * sign ∧
      (-2048 ≤ (imm12 (imm12Of w)).toInt ∧ (imm12 (imm12Of w)).toInt ≤ 2047) ∧
      (-2048 ≤ (imm12 (immSOf w)).toInt ∧ (imm12 (immSOf w)).toInt ≤ 2047) ∧
      ((immBranch (immBOf w)).toInt % 2 = 0 ∧ -4096 ≤ (immBranch (immBOf w)).toInt ∧
        (immBranch (immBOf w)).toInt ≤ 4094) ∧
      ((immJump (immJOf w)).toInt % 2 = 0 ∧ -1048576 ≤ (immJump (immJOf w)).toInt ∧
        (immJump (immJOf w)).toInt ≤ 1048574)

/-- The operand fields of loads, stores, fences, SYSTEM and atomic words (rules R101, R104, R111, R112, R116 to R118); those of
the other groups stand in their own statements. Fields not named here are don't-cares (the spec's decision D19). -/
def Obligations.DecodeOperandFields : Prop :=
  (∀ p ∈ [(0x0003#32, Instr.lb), (0x1003#32, .lh), (0x2003#32, .lw), (0x4003#32, .lbu), (0x5003#32, .lhu)],
      DecodesAs 0x707F#32 p.1 fun w => p.2 (w.extractLsb' 7 5) (w.extractLsb' 15 5) (w.extractLsb' 20 12)) ∧
    (∀ f ∈ [3#3, 6#3, 7#3], ∀ w : Word, opcodeOf w = 0x03#7 → funct3Of w = f →
      decode w = .loadRsv (w.extractLsb' 7 5) (w.extractLsb' 15 5) (w.extractLsb' 20 12) f) ∧
    (∀ p ∈ [(0x0023#32, Instr.sb), (0x1023#32, .sh), (0x2023#32, .sw)],
      DecodesAs 0x707F#32 p.1 fun w => p.2 (w.extractLsb' 20 5) (w.extractLsb' 15 5) (immSOf w)) ∧
    (∀ f ∈ [3#3, 4#3, 5#3, 6#3, 7#3], ∀ w : Word, opcodeOf w = 0x23#7 → funct3Of w = f →
      decode w = .storeRsv (w.extractLsb' 20 5) (w.extractLsb' 15 5) (immSOf w) f) ∧
    DecodesAs 0x707F#32 0x000F#32 (fun w => .fence (w.extractLsb' 28 4) (w.extractLsb' 24 4) (w.extractLsb' 20 4)) ∧
    DecodesAs 0x707F#32 0x100F#32 (fun _ => .fenceI) ∧
    (∀ f ∉ [0#3, 1#3], ∀ w : Word, opcodeOf w = 0x0F#7 → funct3Of w = f → decode w = .fenceOther f) ∧
    (∀ p ∈ [(0x1073#32, Instr.csrrw), (0x2073#32, .csrrs), (0x3073#32, .csrrc), (0x5073#32, .csrrwi),
        (0x6073#32, .csrrsi), (0x7073#32, .csrrci)],
      DecodesAs 0x707F#32 p.1 fun w => p.2 (w.extractLsb' 7 5) (w.extractLsb' 20 12) (w.extractLsb' 15 5)) ∧
    (∀ p ∈ [(0x00000073#32, Instr.ecall), (0x00100073#32, .ebreak), (0x10500073#32, .wfi), (0x30200073#32, .mret)],
      DecodesAs 0xFFF0707F#32 p.1 fun _ => p.2) ∧
    DecodesAs 0xF800007F#32 0x1000002F#32
      (fun w => .lrW (w.extractLsb' 7 5) (w.extractLsb' 15 5) (w.extractLsb' 26 1) (w.extractLsb' 25 1)) ∧
    (∀ p ∈ [(0x1800002F#32, Instr.scW), (0x0800002F#32, .amoswapW), (0x0000002F#32, .amoaddW), (0x2000002F#32, .amoxorW),
        (0x6000002F#32, .amoandW), (0x4000002F#32, .amoorW), (0x8000002F#32, .amominW), (0xA000002F#32, .amomaxW),
        (0xC000002F#32, .amominuW), (0xE000002F#32, .amomaxuW)],
      DecodesAs 0xF800007F#32 p.1 fun w => p.2 (w.extractLsb' 7 5) (w.extractLsb' 20 5) (w.extractLsb' 15 5)
        (w.extractLsb' 26 1) (w.extractLsb' 25 1)) ∧
    ∀ f ∉ definedFunct5, ∀ w : Word, opcodeOf w = 0x2F#7 → funct5Of w = f → decode w = .amoRsv (w.extractLsb' 15 5) f

/-- The words that match no instruction row (rules R121 (a), (b), (e), (f), R147, R179, R298): exactly these decode to
`ILLEGAL`, and each raises illegal instruction with the pc as trap value. Clause (f) rests on the spec's decision D11; that
the words of U4 are among them is the model's choice (log 8). -/
def Obligations.IllegalWordsTrap : Prop :=
  (∀ w : Word, decode w = .illegal w ↔
      (opcodeOf w ∉ [0x37#7, 0x17#7, 0x6F#7, 0x67#7, 0x63#7, 0x03#7, 0x23#7, 0x13#7, 0x33#7, 0x0F#7, 0x73#7, 0x2F#7]) ∨
        (opcodeOf w = 0x63#7 ∧ (funct3Of w = 2#3 ∨ funct3Of w = 3#3)) ∨
        (opcodeOf w = 0x73#7 ∧ funct3Of w = 4#3) ∨
        (opcodeOf w = 0x73#7 ∧ funct3Of w = 0#3 ∧ imm12Of w ∉ [0x000#12, 0x001#12, 0x105#12, 0x302#12])) ∧
    ∀ (w : Word) (s : State), ∃ t, exec (.illegal w) s = .next t ∧ Traps s t 2#32 s.pc

/-! ## Upper immediates, jumps, branches -/

/-- Rules R160, R161: `LUI` writes `imm20 ++ 12'b0`, `AUIPC` adds it to its own address. -/
def Obligations.UpperImmediates : Prop :=
  DecodesAs 0x0000007F#32 0x00000037#32 (fun w => .lui (w.extractLsb' 7 5) (w.extractLsb' 12 20)) ∧
    DecodesAs 0x0000007F#32 0x00000017#32 (fun w => .auipc (w.extractLsb' 7 5) (w.extractLsb' 12 20)) ∧
    ∀ (rd : RegIdx) (imm : BitVec 20) (s : State),
      (∃ t, exec (.lui rd imm) s = .next t ∧ Completes s t rd (BitVec.ofNat 32 (imm.toNat * 2 ^ 12))) ∧
        ∃ t, exec (.auipc rd imm) s = .next t ∧
          Completes s t rd (BitVec.ofNat 32 (s.pc.toNat + imm.toNat * 2 ^ 12))

/-- Rules R170, R171: the link is the address after the jump; `JAL` goes to `pc + offset`, `JALR` to the old `x[rs1]` plus its
displacement, rounded down to an even address, also when `rd = rs1`. That no target is checked here is the spec's decision
D23, that `JALR` ignores `funct3` is D19. -/
def Obligations.JumpsLinkAndGo : Prop :=
  DecodesAs 0x0000007F#32 0x0000006F#32 (fun w => .jal (w.extractLsb' 7 5) (immJOf w)) ∧
    DecodesAs 0x0000007F#32 0x00000067#32
      (fun w => .jalr (w.extractLsb' 7 5) (w.extractLsb' 15 5) (w.extractLsb' 20 12)) ∧
    (∀ (rd : RegIdx) (offset : BitVec 21) (s : State), ∃ t, exec (.jal rd offset) s = .next t ∧
      Commits s t rd (s.pc + 4#32) (BitVec.ofInt 32 (s.pc.toInt + offset.toInt))) ∧
    ∀ (rd rs1 : RegIdx) (imm : BitVec 12) (s : State), ∃ t, exec (.jalr rd rs1 imm) s = .next t ∧
      Commits s t rd (s.pc + 4#32) (BitVec.ofInt 32 (((s.reg rs1).toInt + imm.toInt) / 2 * 2))

/-- Rules R172 to R178: the six comparisons, signed and unsigned; a taken branch goes to `pc + offset`, one not taken to
`pc + 4`, and no register is written. -/
def Obligations.ConditionalBranches : Prop :=
  BranchForm 0x00000063#32 .beq (fun a b => a.toNat = b.toNat) ∧
    BranchForm 0x00001063#32 .bne (fun a b => a.toNat ≠ b.toNat) ∧
    BranchForm 0x00004063#32 .blt (fun a b => a.toInt < b.toInt) ∧
    BranchForm 0x00005063#32 .bge (fun a b => a.toInt ≥ b.toInt) ∧
    BranchForm 0x00006063#32 .bltu (fun a b => a.toNat < b.toNat) ∧
    BranchForm 0x00007063#32 .bgeu (fun a b => a.toNat ≥ b.toNat)

/-! ## Integer operations -/

/-- Rules R221 to R226: the immediate is sign-extended, and for `SLTIU` then read as unsigned. -/
def Obligations.ImmediateOperations : Prop :=
  ImmediateForm 0x00000013#32 .addi (fun a n => BitVec.ofInt 32 (a.toInt + n)) ∧
    ImmediateForm 0x00002013#32 .slti (fun a n => if a.toInt < n then 1#32 else 0#32) ∧
    ImmediateForm 0x00003013#32 .sltiu (fun a n => if (a.toNat : Int) < n % 2 ^ 32 then 1#32 else 0#32) ∧
    ImmediateForm 0x00004013#32 .xori (fun a n => a ^^^ BitVec.ofInt 32 n) ∧
    ImmediateForm 0x00006013#32 .ori (fun a n => a ||| BitVec.ofInt 32 n) ∧
    ImmediateForm 0x00007013#32 .andi (fun a n => a &&& BitVec.ofInt 32 n)

/-- Rules R227 to R229: left shift as a product, logical right shift as an unsigned quotient, arithmetic right shift as a
quotient rounded down. That bits 31 and 29:25 (for `SLLI` 31:25) are ignored is the spec's decision D19 (log 7). -/
def Obligations.ImmediateShifts : Prop :=
  ShiftForm 0x0000707F#32 0x00001013#32 .slli (fun a n => BitVec.ofNat 32 (a.toNat * 2 ^ n)) ∧
    ShiftForm 0x4000707F#32 0x00005013#32 .srli (fun a n => BitVec.ofNat 32 (a.toNat / 2 ^ n)) ∧
    ShiftForm 0x4000707F#32 0x40005013#32 .srai (fun a n => BitVec.ofInt 32 (a.toInt / 2 ^ n))

/-- Rules R231 to R240, in exact integers narrowed to 32 bits; a shift amount is `x[rs2]` modulo 32. That every word with the
row's selector bits decodes so, one with a non-canonical `funct7` too, is the spec's decision D19 (rule R220; log 7). -/
def Obligations.RegisterOperations : Prop :=
  RegisterForm 0x4200707F#32 0x00000033#32 .add (fun a b => BitVec.ofNat 32 (a.toNat + b.toNat)) ∧
    RegisterForm 0x4200707F#32 0x40000033#32 .sub (fun a b => BitVec.ofInt 32 (a.toNat - b.toNat)) ∧
    RegisterForm 0x0200707F#32 0x00001033#32 .sll (fun a b => BitVec.ofNat 32 (a.toNat * 2 ^ (b.toNat % 32))) ∧
    RegisterForm 0x0200707F#32 0x00002033#32 .slt (fun a b => if a.toInt < b.toInt then 1#32 else 0#32) ∧
    RegisterForm 0x0200707F#32 0x00003033#32 .sltu (fun a b => if a.toNat < b.toNat then 1#32 else 0#32) ∧
    RegisterForm 0x0200707F#32 0x00004033#32 .xor (fun a b => a ^^^ b) ∧
    RegisterForm 0x4200707F#32 0x00005033#32 .srl (fun a b => BitVec.ofNat 32 (a.toNat / 2 ^ (b.toNat % 32))) ∧
    RegisterForm 0x4200707F#32 0x40005033#32 .sra (fun a b => BitVec.ofInt 32 (a.toInt / 2 ^ (b.toNat % 32))) ∧
    RegisterForm 0x0200707F#32 0x00006033#32 .or (fun a b => a ||| b) ∧
    RegisterForm 0x0200707F#32 0x00007033#32 .and (fun a b => a &&& b)

/-! ## Multiply and divide -/

/-- Rules R261 to R264: the low word of the product, and the high word for the three signedness pairs (the quotient by 2^32
is rounded down, as the high half of a two's-complement integer is). That a word with a non-canonical `funct7` decodes so too
is the spec's decision D19 (rule R260; log 7). -/
def Obligations.Multiplications : Prop :=
  RegisterForm 0x0200707F#32 0x02000033#32 .mul (fun a b => BitVec.ofInt 32 (a.toInt * b.toInt)) ∧
    RegisterForm 0x0200707F#32 0x02001033#32 .mulh (fun a b => BitVec.ofInt 32 (a.toInt * b.toInt / 2 ^ 32)) ∧
    RegisterForm 0x0200707F#32 0x02002033#32 .mulhsu (fun a b => BitVec.ofInt 32 (a.toInt * b.toNat / 2 ^ 32)) ∧
    RegisterForm 0x0200707F#32 0x02003033#32 .mulhu (fun a b => BitVec.ofNat 32 (a.toNat * b.toNat / 2 ^ 32))

/-- Rules R266, R268: unsigned quotient and remainder, with the fixed results at a zero divisor; no trap. That a word with a
non-canonical `funct7` decodes so too is the spec's decision D19 (rule R260; log 7). -/
def Obligations.UnsignedDivisions : Prop :=
  RegisterForm 0x0200707F#32 0x02005033#32 .divu
      (fun a b => if b.toNat = 0 then 0xFFFFFFFF#32 else BitVec.ofNat 32 (a.toNat / b.toNat)) ∧
    RegisterForm 0x0200707F#32 0x02007033#32 .remu
      (fun a b => if b.toNat = 0 then a else BitVec.ofNat 32 (a.toNat % b.toNat))

/-- Rules R265, R267: signed quotient and remainder, with the fixed results at a zero divisor and at the overflow; no trap.
That the quotient rounds toward zero and the remainder has the sign of the dividend is the spec's decision D28; that a word with
a non-canonical `funct7` decodes so too is its decision D19 (rule R260; log 7). -/
def Obligations.SignedDivisions : Prop :=
  RegisterForm 0x0200707F#32 0x02004033#32 .div
      (fun a b => if b.toInt = 0 then 0xFFFFFFFF#32
        else if a.toInt = -2 ^ 31 ∧ b.toInt = -1 then a else BitVec.ofInt 32 (a.toInt.tdiv b.toInt)) ∧
    RegisterForm 0x0200707F#32 0x02006033#32 .rem
      (fun a b => if b.toInt = 0 then a
        else if a.toInt = -2 ^ 31 ∧ b.toInt = -1 then 0#32 else BitVec.ofInt 32 (a.toInt.tmod b.toInt))

/-- Rule R270 (with decision D28): for a divisor other than zero and no overflow, what `DIV` and `REM` leave in a register
satisfies `a = b * q + r` with `|r| < |b|` and `r` zero or of the sign of `a`; `DIVU` and `REMU` likewise without signs. -/
def Obligations.DivisionLaws : Prop :=
  ∀ (rd rs1 rs2 : RegIdx) (s q r q' r' : State), rd ≠ 0#5 → s.reg rs2 ≠ 0#32 →
    exec (.div rd rs1 rs2) s = .next q → exec (.rem rd rs1 rs2) s = .next r →
    exec (.divu rd rs1 rs2) s = .next q' → exec (.remu rd rs1 rs2) s = .next r' →
    (¬((s.reg rs1).toInt = -2 ^ 31 ∧ (s.reg rs2).toInt = -1) →
        (s.reg rs1).toInt = (s.reg rs2).toInt * (q.reg rd).toInt + (r.reg rd).toInt ∧
          (r.reg rd).toInt.natAbs < (s.reg rs2).toInt.natAbs ∧ 0 ≤ (r.reg rd).toInt * (s.reg rs1).toInt) ∧
      (s.reg rs1).toNat = (s.reg rs2).toNat * (q'.reg rd).toNat + (r'.reg rd).toNat ∧
      (r'.reg rd).toNat < (s.reg rs2).toNat

/-! ## Loads and stores -/

/-- Rules R190 to R195 inside the buffer: the bytes read least significant first, at any alignment, sign- or zero-extended.
The range test is the spec's decision D3. -/
def Obligations.LoadsInsideBuffer : Prop :=
  LoadForm .lb 1 (fun n => BitVec.ofInt 32 (signedOf 8 n)) ∧
    LoadForm .lh 2 (fun n => BitVec.ofInt 32 (signedOf 16 n)) ∧
    LoadForm .lw 4 (fun n => BitVec.ofNat 32 n) ∧
    LoadForm .lbu 1 (fun n => BitVec.ofNat 32 n) ∧
    LoadForm .lhu 2 (fun n => BitVec.ofNat 32 n)

/-- Rules R67, R72, R190, R196 outside the buffer, for the five loads and every word of `LOAD.RSV`: the whole timer half at its
address (the spec's decision D25), else load access fault. -/
def Obligations.LoadsOutsideBuffer : Prop :=
  LoadOutsideForm .lb ∧ LoadOutsideForm .lh ∧ LoadOutsideForm .lw ∧ LoadOutsideForm .lbu ∧ LoadOutsideForm .lhu ∧
    ∀ f : BitVec 3, LoadOutsideForm fun rd rs1 imm => .loadRsv rd rs1 imm f

/-- Rules R200 to R203 inside the buffer: one, two or four bytes of `x[rs2]`, least significant first, at any alignment. The
range test is the spec's decision D3. Under `STORE_BREAKS_RESERVATION` the write sets the model's reservation flag if it
touches the reserved word (rule R316; log 9). -/
def Obligations.StoresInsideBuffer : Prop := StoreForm .sb 1 ∧ StoreForm .sh 2 ∧ StoreForm .sw 4

/-- Rules R67, R73, R200, R204 outside the buffer, for the three stores and every word of `STORE.RSV`: the whole of `x[rs2]` into a
match half at its address (the spec's decision D25), else store access fault. -/
def Obligations.StoresOutsideBuffer : Prop :=
  StoreOutsideForm .sb ∧ StoreOutsideForm .sh ∧ StoreOutsideForm .sw ∧
    ∀ f : BitVec 3, StoreOutsideForm fun rs2 rs1 imm => .storeRsv rs2 rs1 imm f

/-- Rule R207, for the three stores and every word of `STORE.RSV`: the outcome carries the whole of `x[rs2]`, the pc advances,
and nothing else changes; whether CYCLE counts the store is the open parameter of decision D13. -/
def Obligations.ShutdownStores : Prop :=
  ShutdownForm .sb ∧ ShutdownForm .sh ∧ ShutdownForm .sw ∧
    ∀ f : BitVec 3, ShutdownForm fun rs2 rs1 imm => .storeRsv rs2 rs1 imm f

/-- Rules R196, R204, R326 inside the buffer: an undefined width or sub-operation raises illegal instruction with the pc as
trap value, and nothing is read into a register or written. The range test is the spec's decision D3. -/
def Obligations.ReservedSelectorsTrapInsideBuffer : Prop :=
  (∀ (rd rs1 : RegIdx) (imm : BitVec 12) (f : BitVec 3) (s : State), InRam s (displaced (s.reg rs1) imm) →
      ∃ t, exec (.loadRsv rd rs1 imm f) s = .next t ∧ Traps s t 2#32 s.pc) ∧
    (∀ (rs2 rs1 : RegIdx) (imm : BitVec 12) (f : BitVec 3) (s : State), InRam s (displaced (s.reg rs1) imm) →
      ∃ t, exec (.storeRsv rs2 rs1 imm f) s = .next t ∧ Traps s t 2#32 s.pc) ∧
    ∀ (rs1 : RegIdx) (f : BitVec 5) (s : State), InRam s (s.reg rs1) →
      ∃ t, exec (.amoRsv rs1 f) s = .next t ∧ Traps s t 2#32 s.pc

/-- Rule R61 (byte order: the spec's decision D1): after a store of a word, every narrower load inside it reads the bytes it
covers, and a narrower store anywhere inside it changes just its own bytes of the word read later. -/
def Obligations.MixedWidthAccesses : Prop :=
  ∀ (s : State) (a v : Word),
    (∀ k < 4, (s.write32 a v).read8 (a + BitVec.ofNat 32 k) = v.extractLsb' (8 * k) 8) ∧
      (∀ k < 3, (s.write32 a v).read16 (a + BitVec.ofNat 32 k) = v.extractLsb' (8 * k) 16) ∧
      (s.write32 a v).read32 a = v ∧
      (∀ k < 4, ∀ b : Byte, ∀ j < 4,
        (((s.write32 a v).write8 (a + BitVec.ofNat 32 k) b).read32 a).extractLsb' (8 * j) 8 =
          if j = k then b else v.extractLsb' (8 * j) 8) ∧
      ∀ k < 3, ∀ h : Half, ∀ j < 4,
        (((s.write32 a v).write16 (a + BitVec.ofNat 32 k) h).read32 a).extractLsb' (8 * j) 8 =
          if j = k then h.extractLsb' 0 8
          else if j = k + 1 then h.extractLsb' 8 8
          else v.extractLsb' (8 * j) 8

/-- Rules R76 (a), R148: a load sees the store before it, for every store and every load inside the buffer, whatever registers
and displacements name the addresses and however the bytes overlap; where a word is stored and loaded at one address, the
whole word. Program order is the spec's decision D31, the byte order D1, the range test D3. -/
def Obligations.LoadAfterStore : Prop :=
  SeenByLoads .sb 1 ∧ SeenByLoads .sh 2 ∧ SeenByLoads .sw 4 ∧
    ∀ (rs2 rs1 rd rb : RegIdx) (imm disp : BitVec 12) (s t : State), InRam s (displaced (s.reg rs1) imm) →
      displaced (s.reg rb) disp = displaced (s.reg rs1) imm → rd ≠ 0#5 → exec (.sw rs2 rs1 imm) s = .next t →
      ∃ u, exec (.lw rd rb disp) t = .next u ∧ u.reg rd = s.reg rs2

/-- Rule R79: every fetch re-reads memory, so a store to bytes of the very next instruction is seen by its fetch, with no
fence between. Which byte of the word a stored byte is rests on the byte order (rules R60, R145; the spec's decision D1), the
premise on the range test (decision D3). -/
def Obligations.FetchSeesStore : Prop :=
  (∀ s : State, Fetchable s → fetch s = .ok (BitVec.ofNat 32 (bytesAt s s.pc 4))) ∧
    FetchSees .sb 1 ∧ FetchSees .sh 2 ∧ FetchSees .sw 4

/-! ## Fences and SYSTEM -/

/-- Rules R116, R280, and R281, R282: every word of the fence opcode advances the pc and does nothing else, whatever its other
bits, its `rd` field among them. For words of another `funct3` this is the spec's decision D19. -/
def Obligations.FencesOnlyAdvance : Prop :=
  (∀ (w : Word) (s : State), opcodeOf w = 0x0F#7 → ∃ t, exec (decode w) s = .next t ∧ GoesTo s t (s.pc + 4#32)) ∧
    (∀ (fm pred succ : BitVec 4) (s : State), ∃ t, exec (.fence fm pred succ) s = .next t ∧ GoesTo s t (s.pc + 4#32)) ∧
    (∀ s : State, ∃ t, exec .fenceI s = .next t ∧ GoesTo s t (s.pc + 4#32)) ∧
    ∀ (f : BitVec 3) (s : State), ∃ t, exec (.fenceOther f) s = .next t ∧ GoesTo s t (s.pc + 4#32)

/-- Rule R31, the table of CSR numbers: eleven numbers read their words, every other reads 0; eight numbers take a write whole,
every other ignores it. -/
def Obligations.CsrAddressTable : Prop :=
  ∀ (s : State) (v : Word),
    (s.csrRead 0x300#12 = s.mstatus ∧ s.csrRead 0x301#12 = s.params.misaValue ∧ s.csrRead 0x304#12 = s.mie ∧
        s.csrRead 0x305#12 = s.mtvec ∧ s.csrRead 0x340#12 = s.mscratch ∧ s.csrRead 0x341#12 = s.mepc ∧
        s.csrRead 0x342#12 = s.mcause ∧ s.csrRead 0x343#12 = s.mtval ∧ s.csrRead 0x344#12 = s.mip ∧
        s.csrRead 0xC00#12 = s.cyclel ∧ s.csrRead 0xF11#12 = s.params.mvendoridValue) ∧
      (∀ n ∉ [0x300#12, 0x301#12, 0x304#12, 0x305#12, 0x340#12, 0x341#12, 0x342#12, 0x343#12, 0x344#12, 0xC00#12, 0xF11#12],
        s.csrRead n = 0#32) ∧
      (s.csrWrite 0x300#12 v = { s with mstatus := v } ∧ s.csrWrite 0x304#12 v = { s with mie := v } ∧
        s.csrWrite 0x305#12 v = { s with mtvec := v } ∧ s.csrWrite 0x340#12 v = { s with mscratch := v } ∧
        s.csrWrite 0x341#12 v = { s with mepc := v } ∧ s.csrWrite 0x342#12 v = { s with mcause := v } ∧
        s.csrWrite 0x343#12 v = { s with mtval := v } ∧ s.csrWrite 0x344#12 v = { s with mip := v }) ∧
      ∀ n ∉ [0x300#12, 0x304#12, 0x305#12, 0x340#12, 0x341#12, 0x342#12, 0x343#12, 0x344#12], s.csrWrite n v = s

/-- Rules R285 to R292: the six CSR instructions, for every CSR number and every privilege level; sources are read before `rd`
is written. That the write is always performed is the spec's decision D21. -/
def Obligations.CsrInstructions : Prop :=
  ∀ (rd rs1 uimm : RegIdx) (csr : BitVec 12),
    CsrForm (.csrrw rd csr rs1) rd csr (fun s _ => s.reg rs1) ∧
      CsrForm (.csrrs rd csr rs1) rd csr (fun s old => old ||| s.reg rs1) ∧
      CsrForm (.csrrc rd csr rs1) rd csr (fun s old => old &&& ~~~s.reg rs1) ∧
      CsrForm (.csrrwi rd csr uimm) rd csr (fun _ _ => BitVec.ofNat 32 uimm.toNat) ∧
      CsrForm (.csrrsi rd csr uimm) rd csr (fun _ old => old ||| BitVec.ofNat 32 uimm.toNat) ∧
      CsrForm (.csrrci rd csr uimm) rd csr (fun _ old => old &&& ~~~BitVec.ofNat 32 uimm.toNat)

/-- Rule R293 (a), between the two instructions alone: what `CSRRW` writes to a writable CSR, `CSRRS` with `x0` reads back and
leaves there. (In a run the timer stage of the reading step recomputes `mip[7]`.) -/
def Obligations.CsrWriteReadsBack : Prop :=
  ∀ (rd rs1 rx : RegIdx) (csr : BitVec 12) (s t : State),
    csr ∈ [0x300#12, 0x304#12, 0x305#12, 0x340#12, 0x341#12, 0x342#12, 0x343#12, 0x344#12] → rd ≠ 0#5 →
    exec (.csrrw rx csr rs1) s = .next t →
    ∃ u, exec (.csrrs rd csr 0#5) t = .next u ∧ u.reg rd = s.reg rs1 ∧ u.csrRead csr = s.reg rs1

/-- Rules R294, R295: `ECALL` traps with cause 8 from `PRIV` 0 and 11 from any other, `EBREAK` with cause 3, both with their
own address as trap value and saved pc. The cause numbers are the spec's decisions D5 and D6. -/
def Obligations.CallsAndBreakpoints : Prop :=
  ∀ s : State,
    (s.priv.toNat = 0 → ∃ t, exec .ecall s = .next t ∧ Traps s t 8#32 s.pc) ∧
      (s.priv.toNat ≠ 0 → ∃ t, exec .ecall s = .next t ∧ Traps s t 11#32 s.pc) ∧
      ∃ t, exec .ebreak s = .next t ∧ Traps s t 3#32 s.pc

/-- Rule R296, in a step that has counted the instruction of state `u`: MIE and SLEEP are set, the pc advances, the outcome is
`Sleeping` (the spec's decision D12), nothing else changes; whether CYCLE counts it is the open parameter of D13. -/
def Obligations.WaitForInterrupt : Prop :=
  ∀ u : State, ∃ t, exec .wfi (countCycle u) = .next t ∧ t.outcome = .sleeping ∧ t.pc = u.pc + 4#32 ∧ RegsSame u t ∧
    MemSame u t ∧ t.mstatus.getLsbD 3 = true ∧ (∀ k, k ≠ 3 → t.mstatus.getLsbD k = u.mstatus.getLsbD k) ∧
    Kept { (if u.params.cycleOnEarlyExit then countCycle u else u) with mstatus := t.mstatus, sleep := true } t

/-- Rule R297 (the spec's decision D10): MIE is loaded from MPIE, MPIE set, MPP gets the old `PRIV` and `PRIV` the old MPP, every
other bit of `mstatus` is 0, the pc is `mepc` verbatim, and nothing else changes, at any privilege level. -/
def Obligations.MachineReturn : Prop :=
  ∀ s : State, ∃ t, exec .mret s = .next t ∧ t.pc = s.mepc ∧ t.outcome = .continued ∧ RegsSame s t ∧ MemSame s t ∧
    t.mstatus.getLsbD 3 = s.mstatus.getLsbD 7 ∧ t.mstatus.getLsbD 7 = true ∧ t.mstatus.extractLsb' 11 2 = s.priv ∧
    (∀ k, k ∉ [3, 7, 11, 12] → t.mstatus.getLsbD k = false) ∧ t.priv = s.mstatus.extractLsb' 11 2 ∧
    Kept { s with mstatus := t.mstatus, priv := t.priv } t

/-- Rule R352 (with decisions D8 and D10): `MRET` after any trap entry comes back to the interrupted pc with MIE and `PRIV`
as they were, and `mstatus` is `(m[3] << 3) | 0x1880`. -/
def Obligations.ReturnUndoesTrap : Prop :=
  ∀ (cause tval : Word) (s : State), ∃ t, exec .mret (enterTrap cause tval s) = .next t ∧ t.pc = s.pc ∧
    t.priv = s.priv ∧ t.mstatus.getLsbD 3 = s.mstatus.getLsbD 3 ∧
    t.mstatus = BitVec.ofNat 32 (s.mstatus.toNat / 2 ^ 3 % 2 * 2 ^ 3 + 0x1880) ∧ RegsSame s t ∧ MemSame s t

/-- Rule R299 (the spec's decision D20): with any other privilege level every instruction but `ECALL` does the same to the
registers, memory, the pc, the outcome and every state word but `PRIV` itself and the MPP field it is saved in. -/
def Obligations.PrivilegeRestrictsNothing : Prop :=
  ∀ (i : Instr) (s : State) (p : BitVec 2), i ≠ .ecall →
    ∃ t u, exec i s = .next t ∧ exec i { s with priv := p } = .next u ∧ RegsSame t u ∧ MemSame t u ∧ u.pc = t.pc ∧
      u.outcome = t.outcome ∧ Kept { t with mstatus := u.mstatus, priv := u.priv } u ∧
      ∀ k, k ≠ 11 → k ≠ 12 → u.mstatus.getLsbD k = t.mstatus.getLsbD k

/-! ## Atomics -/

/-- Rule R311 inside the buffer: `LR.W` loads the word and records the low 29 bits of its buffer offset (the spec's decision
D18; `rd` gets the word by D29); memory is unchanged. That it clears the reservation-broken flag too is the model's choice
(rule R316; log 9). -/
def Obligations.LoadReserved : Prop :=
  ∀ (rd rs1 : RegIdx) (aq rl : BitVec 1) (s : State), InRam s (s.reg rs1) →
    ∃ t, exec (.lrW rd rs1 aq rl) s = .next t ∧
      Completes { s with
        res := BitVec.ofNat 29 (s.reg rs1 - s.params.memBase).toNat
        resBroken := false } t rd (BitVec.ofNat 32 (bytesAt s (s.reg rs1) 4))

/-- Rule R312 inside the buffer: `SC.W` writes and gives 0 if the recorded offset is the address's, else gives 1 and writes
nothing; the reservation is not consumed (decision D18). Under `STORE_BREAKS_RESERVATION` it also fails once a write has
touched the reserved word (rule R316; the flag is the model's, log 9). -/
def Obligations.StoreConditional : Prop :=
  ∀ (rd rs2 rs1 : RegIdx) (aq rl : BitVec 1) (s : State), InRam s (s.reg rs1) →
    ((s.res.toNat = (s.reg rs1 - s.params.memBase).toNat % 2 ^ 29 ∧
          ¬(s.params.storeBreaksReservation = true ∧ s.resBroken = true)) →
        ∃ t, exec (.scW rd rs2 rs1 aq rl) s = .next t ∧
          StoresAndWrites s t rd 0#32 (s.reg rs1) 4 (s.reg rs2)) ∧
      ((s.res.toNat ≠ (s.reg rs1 - s.params.memBase).toNat % 2 ^ 29 ∨
          (s.params.storeBreaksReservation = true ∧ s.resBroken = true)) →
        ∃ t, exec (.scW rd rs2 rs1 aq rl) s = .next t ∧ Completes s t rd 1#32)

/-- Rules R315, R314 (a) (mechanism of decision D18): `LR.W` and then `SC.W` to the same address succeeds, and so does another
`SC.W` to it after that, as long as stores do not break reservations (rule R316's value). -/
def Obligations.ReservePairSucceeds : Prop :=
  ∀ (rd rs1 rx ry rs2 rb : RegIdx) (aq rl : BitVec 1) (s t : State), InRam s (s.reg rs1) → rx ≠ 0#5 → ry ≠ 0#5 →
    exec (.lrW rd rs1 aq rl) s = .next t → t.reg rb = s.reg rs1 →
    ∃ u, exec (.scW rx rs2 rb aq rl) t = .next u ∧ u.reg rx = 0#32 ∧
      (s.params.storeBreaksReservation = false → u.reg rb = s.reg rs1 →
        ∃ v, exec (.scW ry rs2 rb aq rl) u = .next v ∧ v.reg ry = 0#32)

/-- Rules R310, R317 to R325 inside the buffer: the nine combining functions; `rd` gets the old word (the spec's decision D29).
Under `STORE_BREAKS_RESERVATION` the write sets the model's reservation flag if it touches the reserved word (rule R316;
log 9). -/
def Obligations.AtomicOperations : Prop :=
  AmoForm .amoswapW (fun v _ => v) ∧
    AmoForm .amoaddW (fun v old => BitVec.ofNat 32 (v.toNat + old.toNat)) ∧
    AmoForm .amoxorW (fun v old => v ^^^ old) ∧
    AmoForm .amoandW (fun v old => v &&& old) ∧
    AmoForm .amoorW (fun v old => v ||| old) ∧
    AmoForm .amominW (fun v old => BitVec.ofInt 32 (min v.toInt old.toInt)) ∧
    AmoForm .amomaxW (fun v old => BitVec.ofInt 32 (max v.toInt old.toInt)) ∧
    AmoForm .amominuW (fun v old => BitVec.ofNat 32 (min v.toNat old.toNat)) ∧
    AmoForm .amomaxuW (fun v old => BitVec.ofNat 32 (max v.toNat old.toNat))

/-- Rule R313, and R310, R326 (range test: the spec's decision D3): outside the buffer every word of the atomic opcode, `LR.W`
and undefined sub-operations among them, raises store access fault with the address as trap value, at the memory-mapped
addresses too. -/
def Obligations.AtomicsOutsideBuffer : Prop :=
  ∀ (rd rs2 rs1 : RegIdx) (aq rl : BitVec 1) (f : BitVec 5),
    AtomicOutside (.lrW rd rs1 aq rl) rs1 ∧ AtomicOutside (.scW rd rs2 rs1 aq rl) rs1 ∧
      AtomicOutside (.amoswapW rd rs2 rs1 aq rl) rs1 ∧ AtomicOutside (.amoaddW rd rs2 rs1 aq rl) rs1 ∧
      AtomicOutside (.amoxorW rd rs2 rs1 aq rl) rs1 ∧ AtomicOutside (.amoandW rd rs2 rs1 aq rl) rs1 ∧
      AtomicOutside (.amoorW rd rs2 rs1 aq rl) rs1 ∧ AtomicOutside (.amominW rd rs2 rs1 aq rl) rs1 ∧
      AtomicOutside (.amomaxW rd rs2 rs1 aq rl) rs1 ∧ AtomicOutside (.amominuW rd rs2 rs1 aq rl) rs1 ∧
      AtomicOutside (.amomaxuW rd rs2 rs1 aq rl) rs1 ∧ AtomicOutside (.amoRsv rs1 f) rs1

/-- Rules R120, R310, R327 (decision D19): two words of the atomic opcode that differ only in `aq`, `rl` and `funct3` do the
same in every state. -/
def Obligations.OrderingBitsIgnored : Prop :=
  ∀ (w w' : Word) (s : State), opcodeOf w = 0x2F#7 → w &&& 0xF9FF8FFF#32 = w' &&& 0xF9FF8FFF#32 →
    exec (decode w) s = exec (decode w') s

/-! ## The step -/

/-- Rule R140: when the step reaches fetch and the bytes at the pc decode to `i`, the step is `exec` of `i` on the state with
the timer advanced and CYCLE incremented. `step` takes its `elapsed` from the queue, or a free value (log 3). -/
def Obligations.StepRunsDecodedInstruction : Prop :=
  (∀ (e : Word) (s : State) (i : Instr), Attempts e s → Fetchable s → decodeBytes (pcBytes s) = .ok (i, []) →
      stepWith e s = exec i (countCycle (timerStage e s))) ∧
    (∀ (e : Word) (rest : List Word) (s : State), s.elapsedQueue = e :: rest →
      step s = stepWith e { s with elapsedQueue := rest }) ∧
    ∀ s : State, s.elapsedQueue = [] →
      step s = stepWith (Config.freeElapsed s.elapsedDraws) { s with elapsedDraws := s.elapsedDraws + 1 }

/-- Rule R341: every step advances TIMER by `elapsed` modulo 2^64, whatever else it does, and `elapsed = 0` leaves it as it
is. -/
def Obligations.TimerAdvances : Prop :=
  ∀ (e : Word) (s t : State), stepWith e s = .next t →
    timerNat t = (timerNat s + e.toNat) % 2 ^ 64 ∧
      t.timerl.toNat = (s.timerl.toNat + e.toNat) % 2 ^ 32 ∧
      t.timerh = (if s.timerl.toNat + e.toNat < 2 ^ 32 then s.timerh else s.timerh + 1#32)

/-- Rule R342 (bit position: the spec's decision D7): after the timer stage `mip[7]` is the match condition on the advanced
TIMER, a match wakes the hart, and nothing but TIMER, `mip[7]` and SLEEP has changed. -/
def Obligations.MatchSetsPending : Prop :=
  ∀ (e : Word) (s : State),
    ((timerStage e s).mip.getLsbD 7 = true ↔ MatchAt e s) ∧
      (∀ k, k ≠ 7 → (timerStage e s).mip.getLsbD k = s.mip.getLsbD k) ∧
      ((timerStage e s).sleep = true ↔ StaysAsleep e s) ∧
      timerNat (timerStage e s) = (timerNat s + e.toNat) % 2 ^ 64 ∧
      RegsSame s (timerStage e s) ∧ MemSame s (timerStage e s) ∧ (timerStage e s).pc = s.pc ∧
      Kept { s with
        timerl := (timerStage e s).timerl
        timerh := (timerStage e s).timerh
        mip := (timerStage e s).mip
        sleep := (timerStage e s).sleep } (timerStage e s)

/-- Rule R343: a hart that stays asleep returns `Sleeping` with only TIMER and `mip[7]` changed; sleep is entered by `WFI` only
and left by the match condition only, whether or not the interrupt is enabled. -/
def Obligations.SleepGate : Prop :=
  (∀ (e : Word) (s : State), s.params.wf = true → StaysAsleep e s →
      ∃ t, stepWith e s = .next t ∧ t.outcome = .sleeping ∧ t.pc = s.pc ∧ RegsSame s t ∧ MemSame s t ∧
        timerNat t = (timerNat s + e.toNat) % 2 ^ 64 ∧ (∀ k, k ≠ 7 → t.mip.getLsbD k = s.mip.getLsbD k) ∧
        Kept { s with timerl := t.timerl, timerh := t.timerh, mip := t.mip } t) ∧
    (∀ (e : Word) (s t : State), stepWith e s = .next t → t.sleep = true →
      StaysAsleep e s ∨ (Attempts e s ∧ Fetchable s ∧ decodeBytes (pcBytes s) = .ok (.wfi, []))) ∧
    ∀ (e : Word) (s t : State), stepWith e s = .next t → s.sleep = true → (t.sleep = true ∧ t.outcome = .sleeping) ∨ MatchAt e s

/-- Rules R345, R351 (decisions D8, D9, D32): when the pending bit, MTIE and MIE are all set after the timer stage, the step
takes the interrupt before any fetch: `mepc` is the instruction not executed, the trap value 0, CYCLE unchanged. -/
def Obligations.TimerInterruptTaken : Prop :=
  ∀ (e : Word) (s : State), s.params.wf = true → InterruptDue e s →
    ∃ t, stepWith e s = .next t ∧ Traps (timerStage e s) t 0x80000007#32 0#32 ∧ t.mepc = s.pc ∧ t.pc = s.mtvec ∧
      t.mstatus.getLsbD 7 = true ∧ t.mstatus.getLsbD 3 = false ∧ cycleNat t = cycleNat s ∧ t.sleep = false

/-- Rules R145, R68 (counting the attempt: decision D15): a pc outside the buffer raises instruction access fault, also if
misaligned; one inside it that is no multiple of 4 raises instruction address misaligned; both report the pc. -/
def Obligations.FetchFaults : Prop :=
  ∀ (e : Word) (s : State), Attempts e s →
    (s.params.memLen.toNat ≤ (s.pc - s.params.memBase).toNat →
        ∃ t, stepWith e s = .next t ∧ Traps (countCycle (timerStage e s)) t 1#32 s.pc ∧ t.mepc = s.pc) ∧
      ((s.pc - s.params.memBase).toNat < s.params.memLen.toNat → s.pc.toNat % 4 ≠ 0 →
        ∃ t, stepWith e s = .next t ∧ Traps (countCycle (timerStage e s)) t 0#32 s.pc ∧ t.mepc = s.pc)

/-- Rules R150, R37 (decisions D12, D13, D32): the outcome of a step and what CYCLE does, by path. `Sleeping` comes from the
sleep gate or from `WFI`, `Shutdown` from a store to 0x11100000 with the stored value, everything else is `Continue`. -/
def Obligations.OutcomeByPath : Prop :=
  ∀ (e : Word) (s t : State), stepWith e s = .next t →
    (StaysAsleep e s ∧ t.outcome = .sleeping ∧ cycleNat t = cycleNat s) ∨
      (¬StaysAsleep e s ∧ InterruptDue e s ∧ t.outcome = .continued ∧ cycleNat t = cycleNat s) ∨
      (Attempts e s ∧ t.outcome = .continued ∧ cycleNat t = (cycleNat s + 1) % 2 ^ 64) ∨
      (Attempts e s ∧ Fetchable s ∧ decodeBytes (pcBytes s) = .ok (.wfi, []) ∧ t.outcome = .sleeping ∧
        cycleNat t = if s.params.cycleOnEarlyExit then (cycleNat s + 1) % 2 ^ 64 else cycleNat s) ∨
      (Attempts e s ∧ Fetchable s ∧ (∃ i rs2 rs1 imm, decodeBytes (pcBytes s) = .ok (i, []) ∧
          IsStoreInstr i rs2 rs1 imm ∧ displaced (s.reg rs1) imm = 0x11100000#32 ∧
          t.outcome = .shutdown (s.reg rs2)) ∧
        cycleNat t = if s.params.cycleOnEarlyExit then (cycleNat s + 1) % 2 ^ 64 else cycleNat s)

/-- Rules R37, R286 (decision D14): reading CSR 0xC00 gives the low half of CYCLE with the reading instruction counted. -/
def Obligations.CycleReadIsCounted : Prop :=
  ∀ (e : Word) (s t : State) (rd : RegIdx), Attempts e s → Fetchable s → rd ≠ 0#5 →
    decodeBytes (pcBytes s) = .ok (.csrrs rd 0xC00#12 0#5, []) → stepWith e s = .next t →
    (t.reg rd).toNat = (cycleNat s + 1) % 2 ^ 32 ∧ cycleNat t = (cycleNat s + 1) % 2 ^ 64

/-- A step is refused, under whatever name, exactly in the states whose parameters break rule R12's constraints (U2; log 1), the
refusal is then the one named for them, and no step changes a parameter. -/
def Obligations.RefusesOnlyParameters : Prop :=
  (∀ (e : Word) (s : State), (∃ r, stepWith e s = .refused r) ↔ s.params.wf = false) ∧
    (∀ (e : Word) (s : State), stepWith e s = .refused .parametersOutsideConstraints ↔ s.params.wf = false) ∧
    (∀ (e : Word) (s t : State), stepWith e s = .next t → t.params = s.params) ∧
    ∀ s : State, s.params.wf = true ↔ s.params.memBase.toNat % 4 = 0 ∧ s.params.memLen.toNat % 4 = 0 ∧
      4 ≤ s.params.memLen.toNat ∧ s.params.memBase.toNat + s.params.memLen.toNat ≤ 2 ^ 32

/-! ## The whole machine -/

/-- Every number of steps is answered with a next state, from any state whose parameters meet the constraints: there is no
outcome for error (rule R150; that no fault exists is log 10). By rule R10 a run ends when a step returns `Shutdown`; that the
state is then well defined and a later step follows the same rules is how the model goes on (rules R10, R207; log 4). -/
def Obligations.RunsNeverFail : Prop :=
  ∀ (k : Nat) (s : State), s.params.wf = true → ∃ t, core.run k s = .next t ∧ t.params = s.params

/-- Rules R400, R45 for the state after construction: registers 0 and the pc at the entry point are the document's; every other
word 0 and the hart awake in machine mode are the spec's decision D17 (log 6); the parameter values and the empty buffer are
the model's (logs 2, 5). -/
def Obligations.ResetState : Prop :=
  (∀ q, State.reset.reg q = 0#32) ∧ State.reset.pc = State.reset.params.entryPc ∧ State.reset.extraflags = 3#32 ∧
    cycleNat State.reset = 0 ∧ timerNat State.reset = 0 ∧ matchNat State.reset = 0 ∧
    (∀ n ∉ [0x301#12, 0xF11#12], State.reset.csrRead n = 0#32) ∧ (∀ b, State.reset.mem.read b = 0#8) ∧
    State.reset.params.wf = true ∧ Fetchable State.reset

/-- The state after reset meets the invariant of every step. -/
def Obligations.InvariantAtReset : Prop := Inv State.reset

/-- Every step, from any state that meets the invariant, gives one that meets it (rules R20, R46, R43): parameters in their
constraints, slot 0 of the register file 0, memory canonical and inside the buffer. -/
def Obligations.StepKeepsInvariant : Prop :=
  ∀ s t : State, Inv s → step s = .next t → Inv t

/-- Rules R20, R22: `x0` reads 0 in every state, and a step changes no register but the destination of the instruction it
executes; a step that sleeps, takes the interrupt, faults in fetch or traps changes none. -/
def Obligations.OnlyDestinationChanges : Prop :=
  (∀ s : State, s.reg 0#5 = 0#32) ∧
    (∀ (i : Instr) (s t : State), exec i s = .next t → ∀ q, destination i ≠ some q → t.reg q = s.reg q) ∧
    ∀ (e : Word) (s t : State) (q : RegIdx), stepWith e s = .next t → t.reg q ≠ s.reg q →
      Attempts e s ∧ Fetchable s ∧ ∃ i, decodeBytes (pcBytes s) = .ok (i, []) ∧ destination i = some q

/-- Rules R149, R24: an instruction either commits or traps. If it commits, the pc is the target of its jump, taken branch or
`MRET`, else `pc + 4`, and only a CSR instruction moves a trap word; if it traps, no register, no byte of memory and nothing
else has changed but by trap entry. -/
def Obligations.CommitsOrTraps : Prop :=
  ∀ (i : Instr) (s t : State), exec i s = .next t →
    (t.pc = nextPc s i ∧
        ((t.mcause = s.mcause ∧ t.mtval = s.mtval ∧ t.mepc = s.mepc) ∨ IsCsrInstr i)) ∨
      ∃ cause tval, Traps s t cause tval

/-- Every byte of memory outside the bytes an instruction stores reads as before; one that stores nothing leaves all of
memory as it was (rules R16, R64, R149). The address is the one the meaning computes. -/
def Obligations.MemoryFrame : Prop :=
  ∀ (i : Instr) (s t : State), exec i s = .next t →
    (∀ (a : Word) (n : Nat), storeRange s i = some (a, n) →
        ∀ b, (∀ k < n, b ≠ byteAddr a k) → t.mem.read b = s.mem.read b) ∧
      (storeRange s i = none → MemSame s t)

/-- Who writes the system words (rules R27 to R40, R314, R360): TIMER and the parameters by no instruction, MATCH by stores,
`mscratch`, `mtvec`, `mie`, `mip` by CSR instructions, `RES` by `LR.W` (decision D18), `PRIV` by `MRET` and by trap entry, which
sets it to 3. -/
def Obligations.SystemWordsHaveOneWriter : Prop :=
  ∀ (i : Instr) (s t : State), exec i s = .next t →
    (timerNat t = timerNat s ∧ t.params = s.params) ∧
      (matchNat t ≠ matchNat s → ∃ rs2 rs1 imm, IsStoreInstr i rs2 rs1 imm) ∧
      (t.mscratch ≠ s.mscratch ∨ t.mtvec ≠ s.mtvec ∨ t.mie ≠ s.mie ∨ t.mip ≠ s.mip → IsCsrInstr i) ∧
      (t.res ≠ s.res → ∃ rd rs1 aq rl, i = .lrW rd rs1 aq rl) ∧
      (t.priv ≠ s.priv → i = .mret ∨ t.priv = 3#2) ∧
      (t.sleep ≠ s.sleep → i = .wfi)

/-- Rules R296 (b), R10: with MATCH 0 a sleeping hart sleeps for ever, whatever `elapsed` the host passes; only TIMER and
`mip[7]` move. -/
def Obligations.SleepsForeverWithoutMatch : Prop :=
  ∀ (k : Nat) (s : State), s.params.wf = true → s.sleep = true → matchNat s = 0 →
    ∃ t, core.run k s = .next t ∧ t.sleep = true ∧ (0 < k → t.outcome = .sleeping) ∧ t.pc = s.pc ∧ RegsSame s t ∧
      MemSame s t ∧ cycleNat t = cycleNat s ∧ matchNat t = 0 ∧ t.mstatus = s.mstatus ∧ t.mepc = s.mepc ∧ t.res = s.res

/-- Rule R356, the fault loop (decisions D8, D22): once the pc is an `mtvec` that cannot be fetched and MIE is 0, every step takes
one more fetch exception, CYCLE counts it, and from the second on the trap words are constant; no interrupt breaks it. -/
def Obligations.FaultLoopNeverEnds : Prop :=
  ∀ (k : Nat) (s : State), s.params.wf = true → s.sleep = false → s.mstatus.getLsbD 3 = false → s.pc = s.mtvec →
    ¬Fetchable s →
    ∃ t, core.run (k + 1) s = .next t ∧ t.outcome = .continued ∧ t.pc = s.mtvec ∧ t.mepc = s.mtvec ∧ t.mtval = s.mtvec ∧
      t.mcause = (if (s.mtvec - s.params.memBase).toNat < s.params.memLen.toNat then 0#32 else 1#32) ∧
      t.mstatus = (if k = 0 then s.priv.setWidth 32 <<< 11 else 0x1800#32) ∧
      cycleNat t = (cycleNat s + k + 1) % 2 ^ 64 ∧ RegsSame s t ∧ MemSame s t
end

