-- ==== Sys2Proof/Laws/Memory.lean ====
section
/-! SUPPORT. The laws of memory as a list of cells: a read after a write, that every write keeps the canonical form, and that
canonical memories with the same bytes are equal. The read laws hold for every list, canonical or not. -/

namespace Sys2Proof.Machine

theorem Memory.read_filter_same (m : Memory) (a : Nat) : Memory.read (m.filter (fun c => c.1 ≠ a)) a = 0#8 := by
  induction m with
  | nil => rfl
  | cons c m ih => by_cases h : c.1 = a <;> simp_all [Memory.read]

theorem Memory.read_filter_ne (m : Memory) {a b : Nat} (h : b ≠ a) :
    Memory.read (m.filter (fun c => c.1 ≠ a)) b = m.read b := by
  induction m with
  | nil => rfl
  | cons c m ih =>
    by_cases hc : c.1 = a
    · simp_all [Memory.read, Ne.symm h]
    · simp_all [Memory.read]

theorem Memory.read_place_same {m : Memory} {a : Nat} (h : ∀ c ∈ m, c.1 ≠ a) (v : Byte) :
    (Memory.place a v m).read a = v := by
  induction m with
  | nil => simp [Memory.place, Memory.read]
  | cons c m ih =>
    have hc := h c (.head _)
    have hm := ih fun d hd => h d (.tail _ hd)
    unfold Memory.place
    split
    · simp [Memory.read]
    · rw [Memory.read, if_neg hc, hm]

theorem Memory.read_place_ne (m : Memory) {a b : Nat} (h : b ≠ a) (v : Byte) :
    (Memory.place a v m).read b = m.read b := by
  induction m with
  | nil => simp [Memory.place, Memory.read, h.symm]
  | cons c m ih =>
    unfold Memory.place
    split
    · rw [Memory.read, if_neg h.symm]
    · rw [Memory.read, Memory.read, ih]

/-- A read after a write: the byte written at its address, the old byte everywhere else. -/
theorem Memory.read_write (m : Memory) (a : Nat) (v : Byte) (b : Nat) :
    (m.write a v).read b = if b = a then v else m.read b := by
  unfold Memory.write
  by_cases hb : b = a
  · subst hb
    rw [if_pos rfl]
    split
    · next hv => exact (Memory.read_filter_same m b).trans hv.symm
    · exact Memory.read_place_same (fun c hc => of_decide_eq_true (List.mem_filter.1 hc).2) v
  · rw [if_neg hb]
    split
    · exact Memory.read_filter_ne m hb
    · exact (Memory.read_place_ne _ hb v).trans (Memory.read_filter_ne m hb)

theorem Memory.mem_place {a : Nat} {v : Byte} {m : Memory} {c : Host.Cell} :
    c ∈ Memory.place a v m ↔ c = (a, v) ∨ c ∈ m := by
  induction m with
  | nil => simp [Memory.place]
  | cons d m ih =>
    by_cases h : a < d.1
    · simp [Memory.place, h]
    · simp [Memory.place, h, ih]; tauto

/-- A write lists no cell but the old ones and the one written. -/
theorem Memory.mem_write {m : Memory} {a : Nat} {v : Byte} {c : Host.Cell} (h : c ∈ m.write a v) :
    c ∈ m ∨ (c = (a, v) ∧ v ≠ 0#8) := by
  unfold Memory.write at h
  split at h
  · exact .inl (List.mem_filter.1 h).1
  · rename_i hv
    rcases Memory.mem_place.1 h with h | h
    · exact .inr ⟨h, hv⟩
    · exact .inl (List.mem_filter.1 h).1

theorem Memory.place_sorted {a : Nat} {v : Byte} {m : Memory} (hs : m.Pairwise (fun c d => c.1 < d.1))
    (hn : ∀ c ∈ m, c.1 ≠ a) : (Memory.place a v m).Pairwise (fun c d => c.1 < d.1) := by
  induction m with
  | nil => simp [Memory.place]
  | cons d m ih =>
    rw [List.pairwise_cons] at hs
    by_cases h : a < d.1
    · rw [Memory.place, if_pos h, List.pairwise_cons, List.pairwise_cons]
      refine ⟨fun c hc => ?_, hs⟩
      rcases List.mem_cons.1 hc with rfl | hc
      · exact h
      · exact h.trans (hs.1 c hc)
    · rw [Memory.place, if_neg h, List.pairwise_cons]
      refine ⟨fun c hc => ?_, ih hs.2 fun c hc => hn c (.tail _ hc)⟩
      rcases Memory.mem_place.1 hc with rfl | hc
      · exact lt_of_le_of_ne (not_lt.1 h) (hn d (.head _))
      · exact hs.1 c hc

/-- Every write keeps the canonical form. -/
theorem Memory.write_wf {m : Memory} (h : m.wf) {a : Nat} (ha : a < 2 ^ 32) (v : Byte) : (m.write a v).wf := by
  refine ⟨?_, fun c hc => ?_⟩
  · have hf := h.1.sublist (List.filter_sublist (p := fun c => decide (c.1 ≠ a)) (l := m))
    unfold Memory.write
    split
    · exact hf
    · exact Memory.place_sorted hf fun c hc => by simpa using (List.mem_filter.1 hc).2
  · rcases Memory.mem_write hc with hc | ⟨rfl, hv⟩
    · exact h.2 c hc
    · exact ⟨ha, hv⟩

theorem Memory.read_eq_zero {m : Memory} {a : Nat} (h : ∀ c ∈ m, c.1 ≠ a) : m.read a = 0#8 := by
  induction m with
  | nil => rfl
  | cons c m ih => simp_all [Memory.read]

/-- Canonical memories that read the same everywhere are equal data. -/
theorem Memory.ext_of_wf {m n : Memory} (hm : m.wf) (hn : n.wf) (h : ∀ a, m.read a = n.read a) : m = n := by
  induction m generalizing n with
  | nil =>
    cases n with
    | nil => rfl
    | cons d n => exact absurd (h d.1).symm (by simpa [Memory.read] using (hn.2 d (.head _)).2)
  | cons c m ih =>
    cases n with
    | nil => exact absurd (h c.1) (by simpa [Memory.read] using (hm.2 c (.head _)).2)
    | cons d n =>
      have sm := List.pairwise_cons.1 hm.1
      have sn := List.pairwise_cons.1 hn.1
      have key : c.1 = d.1 := by
        rcases lt_trichotomy c.1 d.1 with hlt | heq | hgt
        · have h0 : Memory.read (d :: n) c.1 = 0#8 := Memory.read_eq_zero fun e he => by
            rcases List.mem_cons.1 he with rfl | he
            · exact hlt.ne'
            · exact (hlt.trans (sn.1 e he)).ne'
          exact absurd ((h c.1).trans h0) (by simpa [Memory.read] using (hm.2 c (.head _)).2)
        · exact heq
        · have h0 : Memory.read (c :: m) d.1 = 0#8 := Memory.read_eq_zero fun e he => by
            rcases List.mem_cons.1 he with rfl | he
            · exact hgt.ne'
            · exact (hgt.trans (sm.1 e he)).ne'
          exact absurd ((h d.1).symm.trans h0) (by simpa [Memory.read] using (hn.2 d (.head _)).2)
      have val : c.2 = d.2 := by simpa [Memory.read, key] using h c.1
      have hcd : c = d := Prod.ext key val
      subst hcd
      congr 1
      refine ih ⟨sm.2, fun e he => hm.2 e (.tail _ he)⟩ ⟨sn.2, fun e he => hn.2 e (.tail _ he)⟩ fun a => ?_
      by_cases ha : c.1 = a
      · subst ha
        rw [Memory.read_eq_zero fun e he => (sm.1 e he).ne', Memory.read_eq_zero fun e he => (sn.1 e he).ne']
      · simpa [Memory.read, ha] using h a

end Sys2Proof.Machine
end

