-- ==== Sys2Proof/Laws/State.lean ====
section
/-! SUPPORT. One lemma per field per update of the state, each true by rfl and a simp lemma, so that no later proof unfolds
a record update. A field an update changes has its lemma here where the new value is short, else in Laws/Ops.lean. -/

namespace Sys2Proof.Machine

variable (s : State)

/-! ### State.setReg -/

@[simp] theorem State.setReg_params (r : RegIdx) (v : Word) : (s.setReg r v).params = s.params := rfl
@[simp] theorem State.setReg_pc (r : RegIdx) (v : Word) : (s.setReg r v).pc = s.pc := rfl
@[simp] theorem State.setReg_mstatus (r : RegIdx) (v : Word) : (s.setReg r v).mstatus = s.mstatus := rfl
@[simp] theorem State.setReg_cyclel (r : RegIdx) (v : Word) : (s.setReg r v).cyclel = s.cyclel := rfl
@[simp] theorem State.setReg_cycleh (r : RegIdx) (v : Word) : (s.setReg r v).cycleh = s.cycleh := rfl
@[simp] theorem State.setReg_timerl (r : RegIdx) (v : Word) : (s.setReg r v).timerl = s.timerl := rfl
@[simp] theorem State.setReg_timerh (r : RegIdx) (v : Word) : (s.setReg r v).timerh = s.timerh := rfl
@[simp] theorem State.setReg_timermatchl (r : RegIdx) (v : Word) : (s.setReg r v).timermatchl = s.timermatchl := rfl
@[simp] theorem State.setReg_timermatchh (r : RegIdx) (v : Word) : (s.setReg r v).timermatchh = s.timermatchh := rfl
@[simp] theorem State.setReg_mscratch (r : RegIdx) (v : Word) : (s.setReg r v).mscratch = s.mscratch := rfl
@[simp] theorem State.setReg_mtvec (r : RegIdx) (v : Word) : (s.setReg r v).mtvec = s.mtvec := rfl
@[simp] theorem State.setReg_mie (r : RegIdx) (v : Word) : (s.setReg r v).mie = s.mie := rfl
@[simp] theorem State.setReg_mip (r : RegIdx) (v : Word) : (s.setReg r v).mip = s.mip := rfl
@[simp] theorem State.setReg_mepc (r : RegIdx) (v : Word) : (s.setReg r v).mepc = s.mepc := rfl
@[simp] theorem State.setReg_mtval (r : RegIdx) (v : Word) : (s.setReg r v).mtval = s.mtval := rfl
@[simp] theorem State.setReg_mcause (r : RegIdx) (v : Word) : (s.setReg r v).mcause = s.mcause := rfl
@[simp] theorem State.setReg_priv (r : RegIdx) (v : Word) : (s.setReg r v).priv = s.priv := rfl
@[simp] theorem State.setReg_sleep (r : RegIdx) (v : Word) : (s.setReg r v).sleep = s.sleep := rfl
@[simp] theorem State.setReg_res (r : RegIdx) (v : Word) : (s.setReg r v).res = s.res := rfl
@[simp] theorem State.setReg_resBroken (r : RegIdx) (v : Word) : (s.setReg r v).resBroken = s.resBroken := rfl
@[simp] theorem State.setReg_mem (r : RegIdx) (v : Word) : (s.setReg r v).mem = s.mem := rfl
@[simp] theorem State.setReg_outcome (r : RegIdx) (v : Word) : (s.setReg r v).outcome = s.outcome := rfl
@[simp] theorem State.setReg_elapsedQueue (r : RegIdx) (v : Word) : (s.setReg r v).elapsedQueue = s.elapsedQueue := rfl
@[simp] theorem State.setReg_elapsedDraws (r : RegIdx) (v : Word) : (s.setReg r v).elapsedDraws = s.elapsedDraws := rfl

/-! ### State.write8 -/

@[simp] theorem State.write8_params (a : Word) (v : Byte) : (s.write8 a v).params = s.params := rfl
@[simp] theorem State.write8_regs (a : Word) (v : Byte) : (s.write8 a v).regs = s.regs := rfl
@[simp] theorem State.write8_pc (a : Word) (v : Byte) : (s.write8 a v).pc = s.pc := rfl
@[simp] theorem State.write8_mstatus (a : Word) (v : Byte) : (s.write8 a v).mstatus = s.mstatus := rfl
@[simp] theorem State.write8_cyclel (a : Word) (v : Byte) : (s.write8 a v).cyclel = s.cyclel := rfl
@[simp] theorem State.write8_cycleh (a : Word) (v : Byte) : (s.write8 a v).cycleh = s.cycleh := rfl
@[simp] theorem State.write8_timerl (a : Word) (v : Byte) : (s.write8 a v).timerl = s.timerl := rfl
@[simp] theorem State.write8_timerh (a : Word) (v : Byte) : (s.write8 a v).timerh = s.timerh := rfl
@[simp] theorem State.write8_timermatchl (a : Word) (v : Byte) : (s.write8 a v).timermatchl = s.timermatchl := rfl
@[simp] theorem State.write8_timermatchh (a : Word) (v : Byte) : (s.write8 a v).timermatchh = s.timermatchh := rfl
@[simp] theorem State.write8_mscratch (a : Word) (v : Byte) : (s.write8 a v).mscratch = s.mscratch := rfl
@[simp] theorem State.write8_mtvec (a : Word) (v : Byte) : (s.write8 a v).mtvec = s.mtvec := rfl
@[simp] theorem State.write8_mie (a : Word) (v : Byte) : (s.write8 a v).mie = s.mie := rfl
@[simp] theorem State.write8_mip (a : Word) (v : Byte) : (s.write8 a v).mip = s.mip := rfl
@[simp] theorem State.write8_mepc (a : Word) (v : Byte) : (s.write8 a v).mepc = s.mepc := rfl
@[simp] theorem State.write8_mtval (a : Word) (v : Byte) : (s.write8 a v).mtval = s.mtval := rfl
@[simp] theorem State.write8_mcause (a : Word) (v : Byte) : (s.write8 a v).mcause = s.mcause := rfl
@[simp] theorem State.write8_priv (a : Word) (v : Byte) : (s.write8 a v).priv = s.priv := rfl
@[simp] theorem State.write8_sleep (a : Word) (v : Byte) : (s.write8 a v).sleep = s.sleep := rfl
@[simp] theorem State.write8_res (a : Word) (v : Byte) : (s.write8 a v).res = s.res := rfl
@[simp] theorem State.write8_resBroken (a : Word) (v : Byte) : (s.write8 a v).resBroken = s.resBroken := rfl
@[simp] theorem State.write8_mem (a : Word) (v : Byte) : (s.write8 a v).mem = s.mem.write a.toNat v := rfl
@[simp] theorem State.write8_outcome (a : Word) (v : Byte) : (s.write8 a v).outcome = s.outcome := rfl
@[simp] theorem State.write8_elapsedQueue (a : Word) (v : Byte) : (s.write8 a v).elapsedQueue = s.elapsedQueue := rfl
@[simp] theorem State.write8_elapsedDraws (a : Word) (v : Byte) : (s.write8 a v).elapsedDraws = s.elapsedDraws := rfl

/-! ### State.write16 -/

@[simp] theorem State.write16_params (a : Word) (v : Half) : (s.write16 a v).params = s.params := rfl
@[simp] theorem State.write16_regs (a : Word) (v : Half) : (s.write16 a v).regs = s.regs := rfl
@[simp] theorem State.write16_pc (a : Word) (v : Half) : (s.write16 a v).pc = s.pc := rfl
@[simp] theorem State.write16_mstatus (a : Word) (v : Half) : (s.write16 a v).mstatus = s.mstatus := rfl
@[simp] theorem State.write16_cyclel (a : Word) (v : Half) : (s.write16 a v).cyclel = s.cyclel := rfl
@[simp] theorem State.write16_cycleh (a : Word) (v : Half) : (s.write16 a v).cycleh = s.cycleh := rfl
@[simp] theorem State.write16_timerl (a : Word) (v : Half) : (s.write16 a v).timerl = s.timerl := rfl
@[simp] theorem State.write16_timerh (a : Word) (v : Half) : (s.write16 a v).timerh = s.timerh := rfl
@[simp] theorem State.write16_timermatchl (a : Word) (v : Half) : (s.write16 a v).timermatchl = s.timermatchl := rfl
@[simp] theorem State.write16_timermatchh (a : Word) (v : Half) : (s.write16 a v).timermatchh = s.timermatchh := rfl
@[simp] theorem State.write16_mscratch (a : Word) (v : Half) : (s.write16 a v).mscratch = s.mscratch := rfl
@[simp] theorem State.write16_mtvec (a : Word) (v : Half) : (s.write16 a v).mtvec = s.mtvec := rfl
@[simp] theorem State.write16_mie (a : Word) (v : Half) : (s.write16 a v).mie = s.mie := rfl
@[simp] theorem State.write16_mip (a : Word) (v : Half) : (s.write16 a v).mip = s.mip := rfl
@[simp] theorem State.write16_mepc (a : Word) (v : Half) : (s.write16 a v).mepc = s.mepc := rfl
@[simp] theorem State.write16_mtval (a : Word) (v : Half) : (s.write16 a v).mtval = s.mtval := rfl
@[simp] theorem State.write16_mcause (a : Word) (v : Half) : (s.write16 a v).mcause = s.mcause := rfl
@[simp] theorem State.write16_priv (a : Word) (v : Half) : (s.write16 a v).priv = s.priv := rfl
@[simp] theorem State.write16_sleep (a : Word) (v : Half) : (s.write16 a v).sleep = s.sleep := rfl
@[simp] theorem State.write16_res (a : Word) (v : Half) : (s.write16 a v).res = s.res := rfl
@[simp] theorem State.write16_resBroken (a : Word) (v : Half) : (s.write16 a v).resBroken = s.resBroken := rfl
@[simp] theorem State.write16_outcome (a : Word) (v : Half) : (s.write16 a v).outcome = s.outcome := rfl
@[simp] theorem State.write16_elapsedQueue (a : Word) (v : Half) : (s.write16 a v).elapsedQueue = s.elapsedQueue := rfl
@[simp] theorem State.write16_elapsedDraws (a : Word) (v : Half) : (s.write16 a v).elapsedDraws = s.elapsedDraws := rfl

/-! ### State.write32 -/

@[simp] theorem State.write32_params (a v : Word) : (s.write32 a v).params = s.params := rfl
@[simp] theorem State.write32_regs (a v : Word) : (s.write32 a v).regs = s.regs := rfl
@[simp] theorem State.write32_pc (a v : Word) : (s.write32 a v).pc = s.pc := rfl
@[simp] theorem State.write32_mstatus (a v : Word) : (s.write32 a v).mstatus = s.mstatus := rfl
@[simp] theorem State.write32_cyclel (a v : Word) : (s.write32 a v).cyclel = s.cyclel := rfl
@[simp] theorem State.write32_cycleh (a v : Word) : (s.write32 a v).cycleh = s.cycleh := rfl
@[simp] theorem State.write32_timerl (a v : Word) : (s.write32 a v).timerl = s.timerl := rfl
@[simp] theorem State.write32_timerh (a v : Word) : (s.write32 a v).timerh = s.timerh := rfl
@[simp] theorem State.write32_timermatchl (a v : Word) : (s.write32 a v).timermatchl = s.timermatchl := rfl
@[simp] theorem State.write32_timermatchh (a v : Word) : (s.write32 a v).timermatchh = s.timermatchh := rfl
@[simp] theorem State.write32_mscratch (a v : Word) : (s.write32 a v).mscratch = s.mscratch := rfl
@[simp] theorem State.write32_mtvec (a v : Word) : (s.write32 a v).mtvec = s.mtvec := rfl
@[simp] theorem State.write32_mie (a v : Word) : (s.write32 a v).mie = s.mie := rfl
@[simp] theorem State.write32_mip (a v : Word) : (s.write32 a v).mip = s.mip := rfl
@[simp] theorem State.write32_mepc (a v : Word) : (s.write32 a v).mepc = s.mepc := rfl
@[simp] theorem State.write32_mtval (a v : Word) : (s.write32 a v).mtval = s.mtval := rfl
@[simp] theorem State.write32_mcause (a v : Word) : (s.write32 a v).mcause = s.mcause := rfl
@[simp] theorem State.write32_priv (a v : Word) : (s.write32 a v).priv = s.priv := rfl
@[simp] theorem State.write32_sleep (a v : Word) : (s.write32 a v).sleep = s.sleep := rfl
@[simp] theorem State.write32_res (a v : Word) : (s.write32 a v).res = s.res := rfl
@[simp] theorem State.write32_resBroken (a v : Word) : (s.write32 a v).resBroken = s.resBroken := rfl
@[simp] theorem State.write32_outcome (a v : Word) : (s.write32 a v).outcome = s.outcome := rfl
@[simp] theorem State.write32_elapsedQueue (a v : Word) : (s.write32 a v).elapsedQueue = s.elapsedQueue := rfl
@[simp] theorem State.write32_elapsedDraws (a v : Word) : (s.write32 a v).elapsedDraws = s.elapsedDraws := rfl

/-! ### State.afterWrite -/

@[simp] theorem State.afterWrite_params (a : Word) (n : Nat) : (s.afterWrite a n).params = s.params := rfl
@[simp] theorem State.afterWrite_regs (a : Word) (n : Nat) : (s.afterWrite a n).regs = s.regs := rfl
@[simp] theorem State.afterWrite_pc (a : Word) (n : Nat) : (s.afterWrite a n).pc = s.pc := rfl
@[simp] theorem State.afterWrite_mstatus (a : Word) (n : Nat) : (s.afterWrite a n).mstatus = s.mstatus := rfl
@[simp] theorem State.afterWrite_cyclel (a : Word) (n : Nat) : (s.afterWrite a n).cyclel = s.cyclel := rfl
@[simp] theorem State.afterWrite_cycleh (a : Word) (n : Nat) : (s.afterWrite a n).cycleh = s.cycleh := rfl
@[simp] theorem State.afterWrite_timerl (a : Word) (n : Nat) : (s.afterWrite a n).timerl = s.timerl := rfl
@[simp] theorem State.afterWrite_timerh (a : Word) (n : Nat) : (s.afterWrite a n).timerh = s.timerh := rfl
@[simp] theorem State.afterWrite_timermatchl (a : Word) (n : Nat) : (s.afterWrite a n).timermatchl = s.timermatchl := rfl
@[simp] theorem State.afterWrite_timermatchh (a : Word) (n : Nat) : (s.afterWrite a n).timermatchh = s.timermatchh := rfl
@[simp] theorem State.afterWrite_mscratch (a : Word) (n : Nat) : (s.afterWrite a n).mscratch = s.mscratch := rfl
@[simp] theorem State.afterWrite_mtvec (a : Word) (n : Nat) : (s.afterWrite a n).mtvec = s.mtvec := rfl
@[simp] theorem State.afterWrite_mie (a : Word) (n : Nat) : (s.afterWrite a n).mie = s.mie := rfl
@[simp] theorem State.afterWrite_mip (a : Word) (n : Nat) : (s.afterWrite a n).mip = s.mip := rfl
@[simp] theorem State.afterWrite_mepc (a : Word) (n : Nat) : (s.afterWrite a n).mepc = s.mepc := rfl
@[simp] theorem State.afterWrite_mtval (a : Word) (n : Nat) : (s.afterWrite a n).mtval = s.mtval := rfl
@[simp] theorem State.afterWrite_mcause (a : Word) (n : Nat) : (s.afterWrite a n).mcause = s.mcause := rfl
@[simp] theorem State.afterWrite_priv (a : Word) (n : Nat) : (s.afterWrite a n).priv = s.priv := rfl
@[simp] theorem State.afterWrite_sleep (a : Word) (n : Nat) : (s.afterWrite a n).sleep = s.sleep := rfl
@[simp] theorem State.afterWrite_res (a : Word) (n : Nat) : (s.afterWrite a n).res = s.res := rfl
@[simp] theorem State.afterWrite_resBroken (a : Word) (n : Nat) : (s.afterWrite a n).resBroken = (s.resBroken || (s.params.storeBreaksReservation && s.touchesReservation a n)) := rfl
@[simp] theorem State.afterWrite_mem (a : Word) (n : Nat) : (s.afterWrite a n).mem = s.mem := rfl
@[simp] theorem State.afterWrite_outcome (a : Word) (n : Nat) : (s.afterWrite a n).outcome = s.outcome := rfl
@[simp] theorem State.afterWrite_elapsedQueue (a : Word) (n : Nat) : (s.afterWrite a n).elapsedQueue = s.elapsedQueue := rfl
@[simp] theorem State.afterWrite_elapsedDraws (a : Word) (n : Nat) : (s.afterWrite a n).elapsedDraws = s.elapsedDraws := rfl

/-! ### State.reserve -/

@[simp] theorem State.reserve_params (a : Word) : (s.reserve a).params = s.params := rfl
@[simp] theorem State.reserve_regs (a : Word) : (s.reserve a).regs = s.regs := rfl
@[simp] theorem State.reserve_pc (a : Word) : (s.reserve a).pc = s.pc := rfl
@[simp] theorem State.reserve_mstatus (a : Word) : (s.reserve a).mstatus = s.mstatus := rfl
@[simp] theorem State.reserve_cyclel (a : Word) : (s.reserve a).cyclel = s.cyclel := rfl
@[simp] theorem State.reserve_cycleh (a : Word) : (s.reserve a).cycleh = s.cycleh := rfl
@[simp] theorem State.reserve_timerl (a : Word) : (s.reserve a).timerl = s.timerl := rfl
@[simp] theorem State.reserve_timerh (a : Word) : (s.reserve a).timerh = s.timerh := rfl
@[simp] theorem State.reserve_timermatchl (a : Word) : (s.reserve a).timermatchl = s.timermatchl := rfl
@[simp] theorem State.reserve_timermatchh (a : Word) : (s.reserve a).timermatchh = s.timermatchh := rfl
@[simp] theorem State.reserve_mscratch (a : Word) : (s.reserve a).mscratch = s.mscratch := rfl
@[simp] theorem State.reserve_mtvec (a : Word) : (s.reserve a).mtvec = s.mtvec := rfl
@[simp] theorem State.reserve_mie (a : Word) : (s.reserve a).mie = s.mie := rfl
@[simp] theorem State.reserve_mip (a : Word) : (s.reserve a).mip = s.mip := rfl
@[simp] theorem State.reserve_mepc (a : Word) : (s.reserve a).mepc = s.mepc := rfl
@[simp] theorem State.reserve_mtval (a : Word) : (s.reserve a).mtval = s.mtval := rfl
@[simp] theorem State.reserve_mcause (a : Word) : (s.reserve a).mcause = s.mcause := rfl
@[simp] theorem State.reserve_priv (a : Word) : (s.reserve a).priv = s.priv := rfl
@[simp] theorem State.reserve_sleep (a : Word) : (s.reserve a).sleep = s.sleep := rfl
@[simp] theorem State.reserve_res (a : Word) : (s.reserve a).res = s.reservationTag a := rfl
@[simp] theorem State.reserve_resBroken (a : Word) : (s.reserve a).resBroken = false := rfl
@[simp] theorem State.reserve_mem (a : Word) : (s.reserve a).mem = s.mem := rfl
@[simp] theorem State.reserve_outcome (a : Word) : (s.reserve a).outcome = s.outcome := rfl
@[simp] theorem State.reserve_elapsedQueue (a : Word) : (s.reserve a).elapsedQueue = s.elapsedQueue := rfl
@[simp] theorem State.reserve_elapsedDraws (a : Word) : (s.reserve a).elapsedDraws = s.elapsedDraws := rfl

/-! ### State.setCycle -/

@[simp] theorem State.setCycle_params (c : Dword) : (s.setCycle c).params = s.params := rfl
@[simp] theorem State.setCycle_regs (c : Dword) : (s.setCycle c).regs = s.regs := rfl
@[simp] theorem State.setCycle_pc (c : Dword) : (s.setCycle c).pc = s.pc := rfl
@[simp] theorem State.setCycle_mstatus (c : Dword) : (s.setCycle c).mstatus = s.mstatus := rfl
@[simp] theorem State.setCycle_cyclel (c : Dword) : (s.setCycle c).cyclel = c.extractLsb' 0 32 := rfl
@[simp] theorem State.setCycle_cycleh (c : Dword) : (s.setCycle c).cycleh = c.extractLsb' 32 32 := rfl
@[simp] theorem State.setCycle_timerl (c : Dword) : (s.setCycle c).timerl = s.timerl := rfl
@[simp] theorem State.setCycle_timerh (c : Dword) : (s.setCycle c).timerh = s.timerh := rfl
@[simp] theorem State.setCycle_timermatchl (c : Dword) : (s.setCycle c).timermatchl = s.timermatchl := rfl
@[simp] theorem State.setCycle_timermatchh (c : Dword) : (s.setCycle c).timermatchh = s.timermatchh := rfl
@[simp] theorem State.setCycle_mscratch (c : Dword) : (s.setCycle c).mscratch = s.mscratch := rfl
@[simp] theorem State.setCycle_mtvec (c : Dword) : (s.setCycle c).mtvec = s.mtvec := rfl
@[simp] theorem State.setCycle_mie (c : Dword) : (s.setCycle c).mie = s.mie := rfl
@[simp] theorem State.setCycle_mip (c : Dword) : (s.setCycle c).mip = s.mip := rfl
@[simp] theorem State.setCycle_mepc (c : Dword) : (s.setCycle c).mepc = s.mepc := rfl
@[simp] theorem State.setCycle_mtval (c : Dword) : (s.setCycle c).mtval = s.mtval := rfl
@[simp] theorem State.setCycle_mcause (c : Dword) : (s.setCycle c).mcause = s.mcause := rfl
@[simp] theorem State.setCycle_priv (c : Dword) : (s.setCycle c).priv = s.priv := rfl
@[simp] theorem State.setCycle_sleep (c : Dword) : (s.setCycle c).sleep = s.sleep := rfl
@[simp] theorem State.setCycle_res (c : Dword) : (s.setCycle c).res = s.res := rfl
@[simp] theorem State.setCycle_resBroken (c : Dword) : (s.setCycle c).resBroken = s.resBroken := rfl
@[simp] theorem State.setCycle_mem (c : Dword) : (s.setCycle c).mem = s.mem := rfl
@[simp] theorem State.setCycle_outcome (c : Dword) : (s.setCycle c).outcome = s.outcome := rfl
@[simp] theorem State.setCycle_elapsedQueue (c : Dword) : (s.setCycle c).elapsedQueue = s.elapsedQueue := rfl
@[simp] theorem State.setCycle_elapsedDraws (c : Dword) : (s.setCycle c).elapsedDraws = s.elapsedDraws := rfl

/-! ### State.setTimer -/

@[simp] theorem State.setTimer_params (d : Dword) : (s.setTimer d).params = s.params := rfl
@[simp] theorem State.setTimer_regs (d : Dword) : (s.setTimer d).regs = s.regs := rfl
@[simp] theorem State.setTimer_pc (d : Dword) : (s.setTimer d).pc = s.pc := rfl
@[simp] theorem State.setTimer_mstatus (d : Dword) : (s.setTimer d).mstatus = s.mstatus := rfl
@[simp] theorem State.setTimer_cyclel (d : Dword) : (s.setTimer d).cyclel = s.cyclel := rfl
@[simp] theorem State.setTimer_cycleh (d : Dword) : (s.setTimer d).cycleh = s.cycleh := rfl
@[simp] theorem State.setTimer_timerl (d : Dword) : (s.setTimer d).timerl = d.extractLsb' 0 32 := rfl
@[simp] theorem State.setTimer_timerh (d : Dword) : (s.setTimer d).timerh = d.extractLsb' 32 32 := rfl
@[simp] theorem State.setTimer_timermatchl (d : Dword) : (s.setTimer d).timermatchl = s.timermatchl := rfl
@[simp] theorem State.setTimer_timermatchh (d : Dword) : (s.setTimer d).timermatchh = s.timermatchh := rfl
@[simp] theorem State.setTimer_mscratch (d : Dword) : (s.setTimer d).mscratch = s.mscratch := rfl
@[simp] theorem State.setTimer_mtvec (d : Dword) : (s.setTimer d).mtvec = s.mtvec := rfl
@[simp] theorem State.setTimer_mie (d : Dword) : (s.setTimer d).mie = s.mie := rfl
@[simp] theorem State.setTimer_mip (d : Dword) : (s.setTimer d).mip = s.mip := rfl
@[simp] theorem State.setTimer_mepc (d : Dword) : (s.setTimer d).mepc = s.mepc := rfl
@[simp] theorem State.setTimer_mtval (d : Dword) : (s.setTimer d).mtval = s.mtval := rfl
@[simp] theorem State.setTimer_mcause (d : Dword) : (s.setTimer d).mcause = s.mcause := rfl
@[simp] theorem State.setTimer_priv (d : Dword) : (s.setTimer d).priv = s.priv := rfl
@[simp] theorem State.setTimer_sleep (d : Dword) : (s.setTimer d).sleep = s.sleep := rfl
@[simp] theorem State.setTimer_res (d : Dword) : (s.setTimer d).res = s.res := rfl
@[simp] theorem State.setTimer_resBroken (d : Dword) : (s.setTimer d).resBroken = s.resBroken := rfl
@[simp] theorem State.setTimer_mem (d : Dword) : (s.setTimer d).mem = s.mem := rfl
@[simp] theorem State.setTimer_outcome (d : Dword) : (s.setTimer d).outcome = s.outcome := rfl
@[simp] theorem State.setTimer_elapsedQueue (d : Dword) : (s.setTimer d).elapsedQueue = s.elapsedQueue := rfl
@[simp] theorem State.setTimer_elapsedDraws (d : Dword) : (s.setTimer d).elapsedDraws = s.elapsedDraws := rfl

/-! ### enterTrap -/

@[simp] theorem enterTrap_params (c v : Word) : (enterTrap c v s).params = s.params := rfl
@[simp] theorem enterTrap_regs (c v : Word) : (enterTrap c v s).regs = s.regs := rfl
@[simp] theorem enterTrap_pc (c v : Word) : (enterTrap c v s).pc = s.mtvec := rfl
@[simp] theorem enterTrap_mstatus (c v : Word) : (enterTrap c v s).mstatus = trapStatus s.mstatus s.priv := rfl
@[simp] theorem enterTrap_cyclel (c v : Word) : (enterTrap c v s).cyclel = s.cyclel := rfl
@[simp] theorem enterTrap_cycleh (c v : Word) : (enterTrap c v s).cycleh = s.cycleh := rfl
@[simp] theorem enterTrap_timerl (c v : Word) : (enterTrap c v s).timerl = s.timerl := rfl
@[simp] theorem enterTrap_timerh (c v : Word) : (enterTrap c v s).timerh = s.timerh := rfl
@[simp] theorem enterTrap_timermatchl (c v : Word) : (enterTrap c v s).timermatchl = s.timermatchl := rfl
@[simp] theorem enterTrap_timermatchh (c v : Word) : (enterTrap c v s).timermatchh = s.timermatchh := rfl
@[simp] theorem enterTrap_mscratch (c v : Word) : (enterTrap c v s).mscratch = s.mscratch := rfl
@[simp] theorem enterTrap_mtvec (c v : Word) : (enterTrap c v s).mtvec = s.mtvec := rfl
@[simp] theorem enterTrap_mie (c v : Word) : (enterTrap c v s).mie = s.mie := rfl
@[simp] theorem enterTrap_mip (c v : Word) : (enterTrap c v s).mip = s.mip := rfl
@[simp] theorem enterTrap_mepc (c v : Word) : (enterTrap c v s).mepc = s.pc := rfl
@[simp] theorem enterTrap_mtval (c v : Word) : (enterTrap c v s).mtval = v := rfl
@[simp] theorem enterTrap_mcause (c v : Word) : (enterTrap c v s).mcause = c := rfl
@[simp] theorem enterTrap_priv (c v : Word) : (enterTrap c v s).priv = 3#2 := rfl
@[simp] theorem enterTrap_sleep (c v : Word) : (enterTrap c v s).sleep = s.sleep := rfl
@[simp] theorem enterTrap_res (c v : Word) : (enterTrap c v s).res = s.res := rfl
@[simp] theorem enterTrap_resBroken (c v : Word) : (enterTrap c v s).resBroken = s.resBroken := rfl
@[simp] theorem enterTrap_mem (c v : Word) : (enterTrap c v s).mem = s.mem := rfl
@[simp] theorem enterTrap_outcome (c v : Word) : (enterTrap c v s).outcome = .continued := rfl
@[simp] theorem enterTrap_elapsedQueue (c v : Word) : (enterTrap c v s).elapsedQueue = s.elapsedQueue := rfl
@[simp] theorem enterTrap_elapsedDraws (c v : Word) : (enterTrap c v s).elapsedDraws = s.elapsedDraws := rfl

/-! ### takeInterrupt -/

@[simp] theorem takeInterrupt_params : (takeInterrupt s).params = s.params := rfl
@[simp] theorem takeInterrupt_regs : (takeInterrupt s).regs = s.regs := rfl
@[simp] theorem takeInterrupt_pc : (takeInterrupt s).pc = s.mtvec := rfl
@[simp] theorem takeInterrupt_mstatus : (takeInterrupt s).mstatus = trapStatus s.mstatus s.priv := rfl
@[simp] theorem takeInterrupt_cyclel : (takeInterrupt s).cyclel = s.cyclel := rfl
@[simp] theorem takeInterrupt_cycleh : (takeInterrupt s).cycleh = s.cycleh := rfl
@[simp] theorem takeInterrupt_timerl : (takeInterrupt s).timerl = s.timerl := rfl
@[simp] theorem takeInterrupt_timerh : (takeInterrupt s).timerh = s.timerh := rfl
@[simp] theorem takeInterrupt_timermatchl : (takeInterrupt s).timermatchl = s.timermatchl := rfl
@[simp] theorem takeInterrupt_timermatchh : (takeInterrupt s).timermatchh = s.timermatchh := rfl
@[simp] theorem takeInterrupt_mscratch : (takeInterrupt s).mscratch = s.mscratch := rfl
@[simp] theorem takeInterrupt_mtvec : (takeInterrupt s).mtvec = s.mtvec := rfl
@[simp] theorem takeInterrupt_mie : (takeInterrupt s).mie = s.mie := rfl
@[simp] theorem takeInterrupt_mip : (takeInterrupt s).mip = s.mip := rfl
@[simp] theorem takeInterrupt_mepc : (takeInterrupt s).mepc = s.pc := rfl
@[simp] theorem takeInterrupt_mtval : (takeInterrupt s).mtval = 0#32 := rfl
@[simp] theorem takeInterrupt_mcause : (takeInterrupt s).mcause = timerInterruptCause := rfl
@[simp] theorem takeInterrupt_priv : (takeInterrupt s).priv = 3#2 := rfl
@[simp] theorem takeInterrupt_sleep : (takeInterrupt s).sleep = s.sleep := rfl
@[simp] theorem takeInterrupt_res : (takeInterrupt s).res = s.res := rfl
@[simp] theorem takeInterrupt_resBroken : (takeInterrupt s).resBroken = s.resBroken := rfl
@[simp] theorem takeInterrupt_mem : (takeInterrupt s).mem = s.mem := rfl
@[simp] theorem takeInterrupt_outcome : (takeInterrupt s).outcome = .continued := rfl
@[simp] theorem takeInterrupt_elapsedQueue : (takeInterrupt s).elapsedQueue = s.elapsedQueue := rfl
@[simp] theorem takeInterrupt_elapsedDraws : (takeInterrupt s).elapsedDraws = s.elapsedDraws := rfl

/-! ### countCycle -/

@[simp] theorem countCycle_params : (countCycle s).params = s.params := rfl
@[simp] theorem countCycle_regs : (countCycle s).regs = s.regs := rfl
@[simp] theorem countCycle_pc : (countCycle s).pc = s.pc := rfl
@[simp] theorem countCycle_mstatus : (countCycle s).mstatus = s.mstatus := rfl
@[simp] theorem countCycle_timerl : (countCycle s).timerl = s.timerl := rfl
@[simp] theorem countCycle_timerh : (countCycle s).timerh = s.timerh := rfl
@[simp] theorem countCycle_timermatchl : (countCycle s).timermatchl = s.timermatchl := rfl
@[simp] theorem countCycle_timermatchh : (countCycle s).timermatchh = s.timermatchh := rfl
@[simp] theorem countCycle_mscratch : (countCycle s).mscratch = s.mscratch := rfl
@[simp] theorem countCycle_mtvec : (countCycle s).mtvec = s.mtvec := rfl
@[simp] theorem countCycle_mie : (countCycle s).mie = s.mie := rfl
@[simp] theorem countCycle_mip : (countCycle s).mip = s.mip := rfl
@[simp] theorem countCycle_mepc : (countCycle s).mepc = s.mepc := rfl
@[simp] theorem countCycle_mtval : (countCycle s).mtval = s.mtval := rfl
@[simp] theorem countCycle_mcause : (countCycle s).mcause = s.mcause := rfl
@[simp] theorem countCycle_priv : (countCycle s).priv = s.priv := rfl
@[simp] theorem countCycle_sleep : (countCycle s).sleep = s.sleep := rfl
@[simp] theorem countCycle_res : (countCycle s).res = s.res := rfl
@[simp] theorem countCycle_resBroken : (countCycle s).resBroken = s.resBroken := rfl
@[simp] theorem countCycle_mem : (countCycle s).mem = s.mem := rfl
@[simp] theorem countCycle_outcome : (countCycle s).outcome = s.outcome := rfl
@[simp] theorem countCycle_elapsedQueue : (countCycle s).elapsedQueue = s.elapsedQueue := rfl
@[simp] theorem countCycle_elapsedDraws : (countCycle s).elapsedDraws = s.elapsedDraws := rfl

/-! ### timerStage -/

@[simp] theorem timerStage_params (e : Word) : (timerStage e s).params = s.params := rfl
@[simp] theorem timerStage_regs (e : Word) : (timerStage e s).regs = s.regs := rfl
@[simp] theorem timerStage_pc (e : Word) : (timerStage e s).pc = s.pc := rfl
@[simp] theorem timerStage_mstatus (e : Word) : (timerStage e s).mstatus = s.mstatus := rfl
@[simp] theorem timerStage_cyclel (e : Word) : (timerStage e s).cyclel = s.cyclel := rfl
@[simp] theorem timerStage_cycleh (e : Word) : (timerStage e s).cycleh = s.cycleh := rfl
@[simp] theorem timerStage_timermatchl (e : Word) : (timerStage e s).timermatchl = s.timermatchl := rfl
@[simp] theorem timerStage_timermatchh (e : Word) : (timerStage e s).timermatchh = s.timermatchh := rfl
@[simp] theorem timerStage_mscratch (e : Word) : (timerStage e s).mscratch = s.mscratch := rfl
@[simp] theorem timerStage_mtvec (e : Word) : (timerStage e s).mtvec = s.mtvec := rfl
@[simp] theorem timerStage_mie (e : Word) : (timerStage e s).mie = s.mie := rfl
@[simp] theorem timerStage_mepc (e : Word) : (timerStage e s).mepc = s.mepc := rfl
@[simp] theorem timerStage_mtval (e : Word) : (timerStage e s).mtval = s.mtval := rfl
@[simp] theorem timerStage_mcause (e : Word) : (timerStage e s).mcause = s.mcause := rfl
@[simp] theorem timerStage_priv (e : Word) : (timerStage e s).priv = s.priv := rfl
@[simp] theorem timerStage_res (e : Word) : (timerStage e s).res = s.res := rfl
@[simp] theorem timerStage_resBroken (e : Word) : (timerStage e s).resBroken = s.resBroken := rfl
@[simp] theorem timerStage_mem (e : Word) : (timerStage e s).mem = s.mem := rfl
@[simp] theorem timerStage_outcome (e : Word) : (timerStage e s).outcome = s.outcome := rfl
@[simp] theorem timerStage_elapsedQueue (e : Word) : (timerStage e s).elapsedQueue = s.elapsedQueue := rfl
@[simp] theorem timerStage_elapsedDraws (e : Word) : (timerStage e s).elapsedDraws = s.elapsedDraws := rfl

/-! ### State.csrWrite: the fields no CSR number writes (rule R286) -/

@[simp] theorem State.csrWrite_params (n : BitVec 12) (v : Word) : (s.csrWrite n v).params = s.params := by
  unfold State.csrWrite; split <;> rfl
@[simp] theorem State.csrWrite_regs (n : BitVec 12) (v : Word) : (s.csrWrite n v).regs = s.regs := by
  unfold State.csrWrite; split <;> rfl
@[simp] theorem State.csrWrite_pc (n : BitVec 12) (v : Word) : (s.csrWrite n v).pc = s.pc := by
  unfold State.csrWrite; split <;> rfl
@[simp] theorem State.csrWrite_cyclel (n : BitVec 12) (v : Word) : (s.csrWrite n v).cyclel = s.cyclel := by
  unfold State.csrWrite; split <;> rfl
@[simp] theorem State.csrWrite_cycleh (n : BitVec 12) (v : Word) : (s.csrWrite n v).cycleh = s.cycleh := by
  unfold State.csrWrite; split <;> rfl
@[simp] theorem State.csrWrite_timerl (n : BitVec 12) (v : Word) : (s.csrWrite n v).timerl = s.timerl := by
  unfold State.csrWrite; split <;> rfl
@[simp] theorem State.csrWrite_timerh (n : BitVec 12) (v : Word) : (s.csrWrite n v).timerh = s.timerh := by
  unfold State.csrWrite; split <;> rfl
@[simp] theorem State.csrWrite_timermatchl (n : BitVec 12) (v : Word) : (s.csrWrite n v).timermatchl = s.timermatchl := by
  unfold State.csrWrite; split <;> rfl
@[simp] theorem State.csrWrite_timermatchh (n : BitVec 12) (v : Word) : (s.csrWrite n v).timermatchh = s.timermatchh := by
  unfold State.csrWrite; split <;> rfl
@[simp] theorem State.csrWrite_priv (n : BitVec 12) (v : Word) : (s.csrWrite n v).priv = s.priv := by
  unfold State.csrWrite; split <;> rfl
@[simp] theorem State.csrWrite_sleep (n : BitVec 12) (v : Word) : (s.csrWrite n v).sleep = s.sleep := by
  unfold State.csrWrite; split <;> rfl
@[simp] theorem State.csrWrite_res (n : BitVec 12) (v : Word) : (s.csrWrite n v).res = s.res := by
  unfold State.csrWrite; split <;> rfl
@[simp] theorem State.csrWrite_resBroken (n : BitVec 12) (v : Word) : (s.csrWrite n v).resBroken = s.resBroken := by
  unfold State.csrWrite; split <;> rfl
@[simp] theorem State.csrWrite_mem (n : BitVec 12) (v : Word) : (s.csrWrite n v).mem = s.mem := by
  unfold State.csrWrite; split <;> rfl
@[simp] theorem State.csrWrite_outcome (n : BitVec 12) (v : Word) : (s.csrWrite n v).outcome = s.outcome := by
  unfold State.csrWrite; split <;> rfl
@[simp] theorem State.csrWrite_elapsedQueue (n : BitVec 12) (v : Word) : (s.csrWrite n v).elapsedQueue = s.elapsedQueue := by
  unfold State.csrWrite; split <;> rfl
@[simp] theorem State.csrWrite_elapsedDraws (n : BitVec 12) (v : Word) : (s.csrWrite n v).elapsedDraws = s.elapsedDraws := by
  unfold State.csrWrite; split <;> rfl

end Sys2Proof.Machine
end

