-- ==== Sys2Proof/Laws/Ops.lean ====
section
/-! SUPPORT. What each shared operation does, said once: registers and register 0, bytes and words of the buffer, how an
instruction ends, the frames of loads, stores, atomics, branches and CSR accesses. -/

namespace Sys2Proof.Machine

variable (s : State)

/-! ## Registers -/

@[simp] theorem State.reg_zero : s.reg 0#5 = 0#32 := rfl

/-- A register after a write: register 0 stays 0, the written one has the value, the others are as before. -/
theorem State.reg_setReg (r : RegIdx) (v : Word) (q : RegIdx) :
    (s.setReg r v).reg q = if q = 0#5 then 0#32 else if q = r then v else s.reg q := by
  unfold State.reg State.setReg
  by_cases hq : q = 0#5
  · simp [hq]
  · by_cases hqr : q = r
    · subst hqr
      simp [hq, Vector.get_eq_getElem]
    · have hne : r.toNat ≠ q.toNat := fun h => hqr (BitVec.eq_of_toNat_eq h.symm)
      by_cases hr : r = 0#5
      · simp [hq, hr]
      · simp [hq, hqr, hr, Vector.get_eq_getElem, hne]

/-- Slot 0 of the register file is never written. -/
theorem State.setReg_slot_zero (r : RegIdx) (v : Word) : (s.setReg r v).regs[0] = s.regs[0] := by
  unfold State.setReg
  by_cases hr : r = 0#5
  · simp [hr]
  · have : r.toNat ≠ 0 := fun h => hr (BitVec.eq_of_toNat_eq h)
    simp [hr, this]

@[simp] theorem State.reg_write8 (a : Word) (v : Byte) (r : RegIdx) : (s.write8 a v).reg r = s.reg r := rfl
@[simp] theorem State.reg_write16 (a : Word) (v : Half) (r : RegIdx) : (s.write16 a v).reg r = s.reg r := rfl
@[simp] theorem State.reg_write32 (a v : Word) (r : RegIdx) : (s.write32 a v).reg r = s.reg r := rfl
@[simp] theorem State.reg_afterWrite (a : Word) (n : Nat) (r : RegIdx) : (s.afterWrite a n).reg r = s.reg r := rfl
@[simp] theorem State.reg_reserve (a : Word) (r : RegIdx) : (s.reserve a).reg r = s.reg r := rfl
@[simp] theorem State.reg_setCycle (c : Dword) (r : RegIdx) : (s.setCycle c).reg r = s.reg r := rfl
@[simp] theorem State.reg_countCycle (r : RegIdx) : (countCycle s).reg r = s.reg r := rfl
@[simp] theorem State.reg_timerStage (e : Word) (r : RegIdx) : (timerStage e s).reg r = s.reg r := rfl
@[simp] theorem State.reg_enterTrap (c v : Word) (r : RegIdx) : (enterTrap c v s).reg r = s.reg r := rfl
@[simp] theorem State.reg_takeInterrupt (r : RegIdx) : (takeInterrupt s).reg r = s.reg r := rfl
@[simp] theorem State.reg_csrWrite (n : BitVec 12) (v : Word) (r : RegIdx) : (s.csrWrite n v).reg r = s.reg r := by
  unfold State.reg; rw [State.csrWrite_regs]

/-! ## Bytes and words of the buffer -/

theorem State.read8_write8 (a : Word) (v : Byte) (b : Word) :
    (s.write8 a v).read8 b = if b = a then v else s.read8 b := by
  unfold State.read8 State.write8
  simp only [Memory.read_write, BitVec.toNat_inj]

theorem State.read_write16 (a : Word) (v : Half) (b : Nat) :
    (s.write16 a v).mem.read b =
      if b = (a + 1#32).toNat then v.extractLsb' 8 8 else if b = a.toNat then v.extractLsb' 0 8 else s.mem.read b := by
  unfold State.write16
  simp only [Memory.read_write]

theorem State.read_write32 (a v : Word) (b : Nat) :
    (s.write32 a v).mem.read b =
      if b = (a + 3#32).toNat then v.extractLsb' 24 8 else if b = (a + 2#32).toNat then v.extractLsb' 16 8
      else if b = (a + 1#32).toNat then v.extractLsb' 8 8 else if b = a.toNat then v.extractLsb' 0 8
      else s.mem.read b := by
  unfold State.write32
  simp only [Memory.read_write]

/-- The four addresses of a word are different, whatever the address (they may wrap). -/
theorem word_addresses_ne (a : Word) :
    a ≠ a + 1#32 ∧ a ≠ a + 2#32 ∧ a ≠ a + 3#32 ∧ a + 1#32 ≠ a + 2#32 ∧ a + 1#32 ≠ a + 3#32 ∧ a + 2#32 ≠ a + 3#32 := by
  refine ⟨?_, ?_, ?_, ?_, ?_, ?_⟩ <;> bv_omega

/-- A word read back where it was written. -/
theorem State.read32_write32 (a v : Word) : (s.write32 a v).read32 a = v := by
  obtain ⟨h1, h2, h3, h4, h5, h6⟩ := word_addresses_ne a
  unfold State.read32 State.read8
  simp only [State.read_write32, BitVec.toNat_inj, h1, h2, h3, h4, h5, h6, ↓reduceIte]
  ext i hi
  simp only [BitVec.getElem_append, BitVec.getElem_extractLsb']
  split
  · simp [BitVec.getLsbD_eq_getElem hi]
  · split
    · rw [← BitVec.getLsbD_eq_getElem]; congr 1; omega
    · split
      · rw [← BitVec.getLsbD_eq_getElem]; congr 1; omega
      · rw [← BitVec.getLsbD_eq_getElem]; congr 1; omega

theorem State.write8_mem_wf (h : s.mem.wf) (a : Word) (v : Byte) : (s.write8 a v).mem.wf :=
  Memory.write_wf h a.isLt v

theorem State.write16_mem_wf (h : s.mem.wf) (a : Word) (v : Half) : (s.write16 a v).mem.wf :=
  Memory.write_wf (Memory.write_wf h a.isLt _) (a + 1#32).isLt _

theorem State.write32_mem_wf (h : s.mem.wf) (a v : Word) : (s.write32 a v).mem.wf :=
  Memory.write_wf (Memory.write_wf (Memory.write_wf (Memory.write_wf h a.isLt _) (a + 1#32).isLt _)
    (a + 2#32).isLt _) (a + 3#32).isLt _

/-! ## How an instruction ends -/

theorem jumpTo_eq (t : Word) : jumpTo t s = .next { s with pc := t, outcome := .continued } := rfl

theorem finish_eq : finish s = .next { s with pc := s.pc + 4#32, outcome := .continued } := rfl

theorem writeBack_eq (rd : RegIdx) (v : Word) :
    writeBack rd v s = .next { s.setReg rd v with pc := s.pc + 4#32, outcome := .continued } := rfl

theorem raise_eq (e : Exception) (v : Word) : raise e v s = .next (enterTrap e.code v s) := rfl

/-- An early exit changes the pc, the outcome and, unless the parameter says that it counts, CYCLE; nothing else. -/
theorem endEarly_eq (o : StepOutcome) :
    endEarly o s =
      .next { (if s.params.cycleOnEarlyExit then s else s.setCycle (s.cycle - 1#64)) with
        pc := s.pc + 4#32, outcome := o } := rfl

theorem State.cycle_setCycle (c : Dword) : (s.setCycle c).cycle = c := by
  unfold State.setCycle State.cycle
  ext i hi
  simp only [BitVec.getElem_append, BitVec.getElem_extractLsb']
  split
  · simp [BitVec.getLsbD_eq_getElem hi]
  · rw [← BitVec.getLsbD_eq_getElem]; congr 1; omega

theorem State.setCycle_cycle : s.setCycle s.cycle = s := by
  have hl : s.cycle.extractLsb' 0 32 = s.cyclel := by
    ext i hi
    rw [BitVec.getElem_extractLsb', Nat.zero_add]
    exact (BitVec.getLsbD_append (x := s.cycleh) (y := s.cyclel)).trans
      (by simp [hi, BitVec.getLsbD_eq_getElem])
  have hh : s.cycle.extractLsb' 32 32 = s.cycleh := by
    ext i hi
    rw [BitVec.getElem_extractLsb']
    exact (BitVec.getLsbD_append (x := s.cycleh) (y := s.cyclel)).trans
      (by simp [BitVec.getLsbD_eq_getElem, hi])
  unfold State.setCycle
  rw [hl, hh]

theorem State.timer_setTimer (t : Dword) : (s.setTimer t).timer = t := by
  unfold State.setTimer State.timer
  ext i hi
  simp only [BitVec.getElem_append, BitVec.getElem_extractLsb']
  split
  · simp [BitVec.getLsbD_eq_getElem hi]
  · rw [← BitVec.getLsbD_eq_getElem]; congr 1; omega

/-- Taking back the count gives CYCLE as it was before the count. -/
theorem countCycle_undone : (countCycle s).setCycle ((countCycle s).cycle - 1#64) = s := by
  have h : (countCycle s).cycle - 1#64 = s.cycle := by
    rw [show (countCycle s).cycle = s.cycle + 1#64 from State.cycle_setCycle s _]; simp
  rw [h]
  exact State.setCycle_cycle s

/-! ## The frames of the instruction groups -/

/-- A branch goes to its target or to the next instruction. -/
theorem branch_cases (cond : Word → Word → Bool) (rs1 rs2 : RegIdx) (offset : BitVec 13) :
    (cond (s.reg rs1) (s.reg rs2) = true ∧ branch cond rs1 rs2 offset s = jumpTo (s.pc + immBranch offset) s) ∨
      (cond (s.reg rs1) (s.reg rs2) = false ∧ branch cond rs1 rs2 offset s = finish s) := by
  unfold branch
  cases h : cond (s.reg rs1) (s.reg rs2)
  · exact .inr ⟨rfl, by simp⟩
  · exact .inl ⟨rfl, by simp⟩

/-- A load does what its width says inside the buffer, reads a timer half, or raises the load access fault. -/
theorem load_cases (rd rs1 : RegIdx) (imm : BitVec 12) (f : Word → State → Result) :
    (s.inRam (s.effAddr rs1 imm) = true ∧ load rd rs1 imm f s = f (s.effAddr rs1 imm) s) ∨
      (s.inRam (s.effAddr rs1 imm) = false ∧
        ((s.effAddr rs1 imm = timerHighAddr ∧ load rd rs1 imm f s = writeBack rd s.timerh s) ∨
          (s.effAddr rs1 imm = timerLowAddr ∧ load rd rs1 imm f s = writeBack rd s.timerl s) ∨
          (s.effAddr rs1 imm ≠ timerHighAddr ∧ s.effAddr rs1 imm ≠ timerLowAddr ∧
            load rd rs1 imm f s = raise .loadAccessFault (s.effAddr rs1 imm) s))) := by
  unfold load
  by_cases hr : s.inRam (s.effAddr rs1 imm) = true
  · exact .inl ⟨hr, if_pos hr⟩
  · refine .inr ⟨by simpa using hr, ?_⟩
    by_cases hh : s.effAddr rs1 imm = timerHighAddr
    · exact .inl ⟨hh, (if_neg hr).trans (if_pos hh)⟩
    · by_cases hl : s.effAddr rs1 imm = timerLowAddr
      · exact .inr (.inl ⟨hl, (if_neg hr).trans ((if_neg hh).trans (if_pos hl))⟩)
      · exact .inr (.inr ⟨hh, hl, (if_neg hr).trans ((if_neg hh).trans (if_neg hl))⟩)

/-- A store does what its width says inside the buffer, writes a match half, shuts down, or raises the store access
fault. -/
theorem store_cases (rs2 rs1 : RegIdx) (imm : BitVec 12) (f : Word → Word → State → Result) :
    (s.inRam (s.effAddr rs1 imm) = true ∧ store rs2 rs1 imm f s = f (s.effAddr rs1 imm) (s.reg rs2) s) ∨
      (s.inRam (s.effAddr rs1 imm) = false ∧
        ((s.effAddr rs1 imm = matchHighAddr ∧
            store rs2 rs1 imm f s = finish { s with timermatchh := s.reg rs2 }) ∨
          (s.effAddr rs1 imm = matchLowAddr ∧
            store rs2 rs1 imm f s = finish { s with timermatchl := s.reg rs2 }) ∨
          (s.effAddr rs1 imm = sysconAddr ∧ store rs2 rs1 imm f s = endEarly (.shutdown (s.reg rs2)) s) ∨
          (s.effAddr rs1 imm ≠ matchHighAddr ∧ s.effAddr rs1 imm ≠ matchLowAddr ∧ s.effAddr rs1 imm ≠ sysconAddr ∧
            store rs2 rs1 imm f s = raise .storeAccessFault (s.effAddr rs1 imm) s))) := by
  unfold store
  by_cases hr : s.inRam (s.effAddr rs1 imm) = true
  · exact .inl ⟨hr, if_pos hr⟩
  · refine .inr ⟨by simpa using hr, ?_⟩
    by_cases hh : s.effAddr rs1 imm = matchHighAddr
    · exact .inl ⟨hh, (if_neg hr).trans (if_pos hh)⟩
    · by_cases hl : s.effAddr rs1 imm = matchLowAddr
      · exact .inr (.inl ⟨hl, (if_neg hr).trans ((if_neg hh).trans (if_pos hl))⟩)
      · by_cases hc : s.effAddr rs1 imm = sysconAddr
        · exact .inr (.inr (.inl ⟨hc, (if_neg hr).trans ((if_neg hh).trans ((if_neg hl).trans (if_pos hc)))⟩))
        · exact .inr (.inr (.inr ⟨hh, hl, hc,
            (if_neg hr).trans ((if_neg hh).trans ((if_neg hl).trans (if_neg hc)))⟩))

/-- An atomic does its operation inside the buffer or raises the store access fault. -/
theorem atomic_cases (rs1 : RegIdx) (op : Word → State → Result) :
    (s.inRam (s.reg rs1) = true ∧ atomic rs1 op s = op (s.reg rs1) s) ∨
      (s.inRam (s.reg rs1) = false ∧ atomic rs1 op s = raise .storeAccessFault (s.reg rs1) s) := by
  unfold atomic
  by_cases hr : s.inRam (s.reg rs1) = true
  · exact .inl ⟨hr, if_pos hr⟩
  · exact .inr ⟨by simpa using hr, if_neg hr⟩

/-- A CSR instruction always completes: the CSR is written, `rd` gets the old value, the pc advances. -/
theorem csrAccess_eq (rd : RegIdx) (csr : BitVec 12) (new : Word → Word) :
    csrAccess rd csr new s =
      .next { (s.csrWrite csr (new (s.csrRead csr))).setReg rd (s.csrRead csr) with
        pc := s.pc + 4#32, outcome := .continued } := by
  unfold csrAccess
  rw [writeBack_eq, State.csrWrite_pc]

end Sys2Proof.Machine
end

