-- ==== Sys2Proof/Laws/Stages.lean ====
section
/-! SUPPORT. What a step can do, said once: the four ways it ends (rule R140), and what fetch, the timer stage and the
host's input do. -/

namespace Sys2Proof.Machine

variable (s : State)

/-- Fetch: access fault outside the buffer, then misaligned, else the word at the pc (rule R145). -/
theorem fetch_cases :
    (s.params.memLen.toNat ≤ (s.off s.pc).toNat ∧ fetch s = .error .instructionAccessFault) ∨
      ((s.off s.pc).toNat < s.params.memLen.toNat ∧ (s.off s.pc).extractLsb' 0 2 ≠ 0#2 ∧
        fetch s = .error .instructionAddressMisaligned) ∨
      ((s.off s.pc).toNat < s.params.memLen.toNat ∧ (s.off s.pc).extractLsb' 0 2 = 0#2 ∧
        fetch s = .ok (s.read32 s.pc)) := by
  unfold fetch
  by_cases h1 : s.params.memLen.toNat ≤ (s.off s.pc).toNat
  · exact .inl ⟨h1, by simp [h1]⟩
  · by_cases h2 : (s.off s.pc).extractLsb' 0 2 = 0#2
    · exact .inr (.inr ⟨by omega, h2, by simp [h1, h2]⟩)
    · exact .inr (.inl ⟨by omega, h2, by simp [h1, h2]⟩)

/-- The four ways of a step: refused parameters, asleep, interrupt, attempt (rule R140). -/
theorem stepWith_cases (e : Word) :
    (s.params.wf = false ∧ stepWith e s = .refused .parametersOutsideConstraints) ∨
      (s.params.wf = true ∧
        (((timerStage e s).sleep = true ∧ stepWith e s = .next { timerStage e s with outcome := .sleeping }) ∨
          ((timerStage e s).sleep = false ∧ (timerStage e s).interruptReady = true ∧
            stepWith e s = .next (takeInterrupt (timerStage e s))) ∨
          ((timerStage e s).sleep = false ∧ (timerStage e s).interruptReady = false ∧
            stepWith e s = attempt exec (countCycle (timerStage e s))))) := by
  unfold stepWith stages
  cases hp : s.params.wf
  · exact .inl ⟨rfl, by simp⟩
  · refine .inr ⟨rfl, ?_⟩
    cases hs : (timerStage e s).sleep
    · cases hi : (timerStage e s).interruptReady
      · exact .inr (.inr ⟨rfl, rfl, by simp [hs, hi]⟩)
      · exact .inr (.inl ⟨rfl, rfl, by simp [hs, hi]⟩)
    · exact .inl ⟨rfl, by simp [hs]⟩

theorem timerStage_timer (e : Word) : (timerStage e s).timer = s.timer + e.setWidth 64 :=
  State.timer_setTimer s _

/-- The match condition after the advance is a function of the two 64-bit numbers alone. -/
theorem timerStage_matchHolds (e : Word) :
    (timerStage e s).matchHolds = (s.timermatch != 0#64 && s.timermatch.ult (s.timer + e.setWidth 64)) := by
  unfold State.matchHolds
  rw [timerStage_timer]
  rfl

theorem timerStage_sleep (e : Word) : (timerStage e s).sleep = (s.sleep && !(timerStage e s).matchHolds) := rfl

theorem timerStage_mip (e : Word) : (timerStage e s).mip = mipWithTimer s.mip (timerStage e s).matchHolds := rfl

theorem mtipBit_mipWithTimer (mip : Word) (b : Bool) : mtipBit (mipWithTimer mip b) = b := by
  unfold mtipBit mipWithTimer
  cases b <;> simp

/-- The host's input is consumed and nothing else moves. -/
theorem drawElapsed_cases :
    (∃ e rest, s.elapsedQueue = e :: rest ∧ drawElapsed s = (e, { s with elapsedQueue := rest })) ∨
      (s.elapsedQueue = [] ∧
        drawElapsed s = (Config.freeElapsed s.elapsedDraws, { s with elapsedDraws := s.elapsedDraws + 1 })) := by
  unfold drawElapsed
  cases h : s.elapsedQueue with
  | nil => exact .inr ⟨rfl, rfl⟩
  | cons e rest => exact .inl ⟨e, rest, rfl, rfl⟩

theorem step_eq : step s = stepWith (drawElapsed s).1 (drawElapsed s).2 := rfl

end Sys2Proof.Machine
end

