-- ==== Sys2Proof/Laws/Claims.lean ====
section
/-! SUPPORT. What each shared operation does, in the terms of Sys2Proof/Safety.lean: how instructions end, byte sums, the
stored bytes, the conditions of a step. A proof about an instruction cites these and unfolds no operation. -/

namespace Sys2Proof.Machine

variable (s : State)

theorem Kept.refl : Kept s s := by constructor <;> rfl

theorem regsAre_setReg (rd : RegIdx) (v : Word) : RegsAre s (s.setReg rd v) rd v := by
  refine ⟨rfl, fun h => ?_, fun q hq => ?_⟩
  · rw [State.reg_setReg, if_neg h, if_pos rfl]
  · rw [State.reg_setReg, if_neg hq]
    split
    · next h => rw [h]; rfl
    · rfl

/-- `pc <- target` with a register write (rules R17, R24). -/
theorem commits_jumpTo (rd : RegIdx) (v target : Word) :
    ∃ t, jumpTo target (s.setReg rd v) = .next t ∧ Commits s t rd v target :=
  ⟨_, rfl, regsAre_setReg s rd v, rfl, rfl, by constructor <;> rfl, fun _ => rfl⟩

/-- `x[rd] <- v ; pc <- pc + 4`. -/
theorem completes_writeBack (rd : RegIdx) (v : Word) : ∃ t, writeBack rd v s = .next t ∧ Completes s t rd v :=
  commits_jumpTo s rd v (s.pc + 4#32)

theorem goesTo_jumpTo (target : Word) : ∃ t, jumpTo target s = .next t ∧ GoesTo s t target :=
  ⟨_, rfl, fun _ => rfl, rfl, rfl, by constructor <;> rfl, fun _ => rfl⟩

theorem goesTo_finish : ∃ t, finish s = .next t ∧ GoesTo s t (s.pc + 4#32) := goesTo_jumpTo s _

/-- Rule R350's formula for `mstatus`, as bits. -/
theorem trapStatus_eq (m : Word) (p : BitVec 2) :
    trapStatus m p = (((m >>> 3) &&& 1#32) <<< 7) ||| (p.setWidth 32 <<< 11) := by
  have : bitWord (mieBit m) = (m >>> 3) &&& 1#32 := by
    unfold bitWord mieBit
    ext i hi
    by_cases h : i = 0
    · subst h; simp
    · simp [h, BitVec.getElem_one]
  rw [trapStatus, this]

theorem traps_enterTrap (cause tval : Word) : Traps s (enterTrap cause tval s) cause tval :=
  ⟨fun _ => rfl, fun _ => rfl, rfl, rfl,
    { Kept.refl (enterTrap cause tval s) with mstatus := trapStatus_eq s.mstatus s.priv }⟩

theorem traps_raise (e : Exception) (tval : Word) : ∃ t, raise e tval s = .next t ∧ Traps s t e.code tval :=
  ⟨_, rfl, traps_enterTrap s e.code tval⟩

/-! ## Memory -/

theorem inRam_iff (a : Word) : s.inRam a = true ↔ InRam s a := by
  unfold State.inRam InRam State.off
  rw [decide_eq_true_iff]
  omega

theorem inRam_eq_false_iff (a : Word) : s.inRam a = false ↔ ¬InRam s a := by
  rw [← inRam_iff, Bool.not_eq_true]

theorem add_signExtend {n : Nat} (a : Word) (d : BitVec n) (h : n ≤ 32) :
    a + d.signExtend 32 = BitVec.ofInt 32 (a.toInt + d.toInt) := by
  apply BitVec.eq_of_toInt_eq
  rw [BitVec.toInt_add, BitVec.toInt_signExtend_of_le h, BitVec.toInt_ofInt]

theorem effAddr_eq (rs1 : RegIdx) (imm : BitVec 12) : s.effAddr rs1 imm = displaced (s.reg rs1) imm :=
  add_signExtend _ imm (by decide)

theorem read8_toNat (a : Word) : (s.read8 a).toNat = bytesAt s a 1 := by
  simp [bytesAt, byteAddr, State.read8]

theorem toNat_append_add {m n : Nat} (hi : BitVec m) (lo : BitVec n) : (hi ++ lo).toNat = lo.toNat + hi.toNat * 2 ^ n := by
  rw [BitVec.toNat_append, Nat.shiftLeft_eq, Nat.mul_comm hi.toNat, ← Nat.two_pow_add_eq_or_of_lt lo.isLt, Nat.add_comm]

theorem read16_toNat (a : Word) : (s.read16 a).toNat = bytesAt s a 2 := by
  unfold State.read16
  rw [toNat_append_add]
  simp [bytesAt, byteAddr, State.read8]

theorem read32_toNat (a : Word) : (s.read32 a).toNat = bytesAt s a 4 := by
  unfold State.read32
  refine (toNat_append_add _ _).trans ?_
  rw [toNat_append_add, toNat_append_add]
  simp only [bytesAt, byteAddr, State.read8, BitVec.add_zero]
  omega

/-- Four bytes make a word. -/
theorem read32_eq (a : Word) : s.read32 a = BitVec.ofNat 32 (bytesAt s a 4) := by
  rw [← read32_toNat, BitVec.ofNat_toNat, BitVec.setWidth_eq]

theorem memStored_write8 (a v : Word) : MemStored s (s.write8 a (v.extractLsb' 0 8)) a 1 v := by
  constructor
  · intro k hk
    have : k = 0 := by omega
    subst this
    simp [State.write8, Memory.read_write, byteAddr]
  · intro b hb
    have := hb 0 (by omega)
    simp only [byteAddr, BitVec.add_zero] at this
    simp [State.write8, Memory.read_write, this]

theorem memStored_write16 (a v : Word) : MemStored s (s.write16 a (v.extractLsb' 0 16)) a 2 v := by
  constructor
  · intro k hk
    rw [State.read_write16]
    have h1 := (word_addresses_ne a).1
    interval_cases k
    · simp only [byteAddr, BitVec.add_zero, BitVec.toNat_inj, h1, ↓reduceIte]
      ext i hi
      simp only [BitVec.getElem_extractLsb', BitVec.getLsbD_extractLsb']
      rw [decide_eq_true (by omega), Bool.true_and]
      congr 1; omega
    · simp only [byteAddr, ↓reduceIte]
      ext i hi
      simp only [BitVec.getElem_extractLsb', BitVec.getLsbD_extractLsb']
      rw [decide_eq_true (by omega), Bool.true_and]
      congr 1; omega
  · intro b hb
    have h0 := hb 0 (by omega)
    have h1 := hb 1 (by omega)
    simp only [byteAddr, BitVec.add_zero] at h0 h1
    rw [State.read_write16, if_neg h1, if_neg h0]

theorem memStored_write32 (a v : Word) : MemStored s (s.write32 a v) a 4 v := by
  obtain ⟨h1, h2, h3, h4, h5, h6⟩ := word_addresses_ne a
  constructor
  · intro k hk
    rw [State.read_write32]
    interval_cases k <;> simp only [byteAddr, BitVec.add_zero, BitVec.toNat_inj, h1, h2, h3, h4, h5, h6, ↓reduceIte]
  · intro b hb
    have g0 := hb 0 (by omega)
    have g1 := hb 1 (by omega)
    have g2 := hb 2 (by omega)
    have g3 := hb 3 (by omega)
    simp only [byteAddr, BitVec.add_zero] at g0 g1 g2 g3
    rw [State.read_write32, if_neg g3, if_neg g2, if_neg g1, if_neg g0]

/-- The model's overlap test is rule R316's: a byte written is a byte of the reserved word. -/
theorem touchesReservation_iff (a : Word) {n : Nat} (hn : 0 < n) :
    s.touchesReservation a n = true ↔ ∃ i < n, ∃ j < 4, (a - s.params.memBase).toNat + i = s.res.toNat + j := by
  unfold State.touchesReservation State.off
  rw [decide_eq_true_iff]
  generalize (a - s.params.memBase).toNat = x
  generalize s.res.toNat = y
  constructor
  · intro ⟨h1, h2⟩
    by_cases h : x ≤ y
    · exact ⟨y - x, by omega, 0, by omega, by omega⟩
    · exact ⟨0, by omega, x - y, by omega, by omega⟩
  · intro ⟨i, hi, j, hj, h⟩
    omega

theorem afterWrite_resBroken (a : Word) {n : Nat} (hn : 0 < n) :
    (s.afterWrite a n).resBroken = true ↔ s.resBroken = true ∨ Breaks s a n := by
  unfold State.afterWrite Breaks
  rw [← touchesReservation_iff s a hn]
  simp

/-- The end of a store: `u` is `s` with the bytes written. -/
theorem stores_finish {u : State} {a v : Word} {n : Nat} (hn : 0 < n)
    (hu : u = { s with mem := u.mem }) (hm : MemStored s u a n v) :
    ∃ t, finish (u.afterWrite a n) = .next t ∧ Stores s t a n v := by
  refine ⟨_, rfl, fun q => ?_, hm, ?_, rfl, ?_, ?_⟩
  · rw [hu]; rfl
  · rw [hu]; rfl
  · rw [hu]; constructor <;> rfl
  · rw [hu]; exact afterWrite_resBroken s a hn

/-- The end of an atomic that writes: `u` is `s` with the bytes written. -/
theorem storesAndWrites_writeBack {u : State} {a v w : Word} {rd : RegIdx} {n : Nat} (hn : 0 < n)
    (hu : u = { s with mem := u.mem })
    (hm : MemStored s u a n v) :
    ∃ t, writeBack rd w (u.afterWrite a n) = .next t ∧ StoresAndWrites s t rd w a n v := by
  refine ⟨_, rfl, ?_, hm, ?_, rfl, ?_, ?_⟩
  · rw [hu]; exact regsAre_setReg s rd w
  · rw [hu]; rfl
  · rw [hu]; constructor <;> rfl
  · rw [hu]; exact afterWrite_resBroken s a hn

/-! ## The step -/

theorem timer_toNat : s.timer.toNat = timerNat s := by
  unfold State.timer timerNat
  rw [BitVec.toNat_append, Nat.shiftLeft_eq, Nat.mul_comm, ← Nat.two_pow_add_eq_or_of_lt s.timerl.isLt, Nat.mul_comm]

theorem timermatch_toNat : s.timermatch.toNat = matchNat s := by
  unfold State.timermatch matchNat
  rw [BitVec.toNat_append, Nat.shiftLeft_eq, Nat.mul_comm, ← Nat.two_pow_add_eq_or_of_lt s.timermatchl.isLt, Nat.mul_comm]

theorem cycle_toNat : s.cycle.toNat = cycleNat s := by
  unfold State.cycle cycleNat
  rw [BitVec.toNat_append, Nat.shiftLeft_eq, Nat.mul_comm, ← Nat.two_pow_add_eq_or_of_lt s.cyclel.isLt, Nat.mul_comm]

theorem timerNat_timerStage (e : Word) : timerNat (timerStage e s) = (timerNat s + e.toNat) % 2 ^ 64 := by
  rw [← timer_toNat, timerStage_timer, BitVec.toNat_add, timer_toNat, BitVec.toNat_setWidth,
    Nat.mod_eq_of_lt (a := e.toNat) (by omega)]

theorem cycleNat_countCycle : cycleNat (countCycle s) = (cycleNat s + 1) % 2 ^ 64 := by
  rw [← cycle_toNat, show (countCycle s).cycle = s.cycle + 1#64 from State.cycle_setCycle s _, BitVec.toNat_add,
    cycle_toNat]
  rfl

theorem matchHolds_iff (e : Word) : (timerStage e s).matchHolds = true ↔ MatchAt e s := by
  rw [timerStage_matchHolds, Bool.and_eq_true, bne_iff_ne, Ne, ← BitVec.toNat_inj, BitVec.ult, decide_eq_true_iff,
    timermatch_toNat, ← timerStage_timer, timer_toNat, timerNat_timerStage]
  rfl

theorem sleep_iff (e : Word) : (timerStage e s).sleep = true ↔ StaysAsleep e s := by
  unfold StaysAsleep
  rw [timerStage_sleep, Bool.and_eq_true, Bool.not_eq_true', ← matchHolds_iff, Bool.not_eq_true]

theorem interruptReady_iff (e : Word) : (timerStage e s).interruptReady = true ↔ InterruptDue e s := by
  unfold State.interruptReady InterruptDue
  rw [timerStage_mip, mtipBit_mipWithTimer, Bool.and_eq_true, Bool.and_eq_true, matchHolds_iff, and_assoc]
  rfl

/-- The bytes at the pc decode as the word there does. -/
theorem decodeBytes_pcBytes : decodeBytes (pcBytes s) = .ok (decode (s.read32 s.pc), []) := by
  simp [pcBytes, decodeBytes, byteAddr, wordOfBytes, State.read32, State.read8]

theorem fetch_of_fetchable (h : Fetchable s) : fetch s = .ok (s.read32 s.pc) := by
  unfold fetch State.off
  rw [if_neg (by have := h.1; omega), if_neg]
  rw [not_not, ← BitVec.toNat_inj, BitVec.extractLsb'_toNat]
  simpa using h.2

end Sys2Proof.Machine
end

