-- ==== Sys2Proof/Laws/Encoding.lean ====
section
/-! SUPPORT. Every field of a word built by a format (rules R101 to R107): what the encoder puts in, the decoder's field
functions take out. -/

namespace Sys2Proof

open Machine

/-- The bits of a field put into a word. -/
theorem getElem_put {n : Nat} (f : BitVec n) (lo i : Nat) (h : i < 32) :
    (put f lo)[i] = (!decide (i < lo) && f.getLsbD (i - lo)) := by
  unfold put
  simp only [BitVec.getElem_shiftLeft, BitVec.getElem_setWidth]

/-- The bits of an S-immediate (rule R104). -/
theorem getLsbD_immSOf (w : Word) (i : Nat) :
    (immSOf w).getLsbD i = if i < 5 then (w.extractLsb' 7 5).getLsbD i else (w.extractLsb' 25 7).getLsbD (i - 5) :=
  BitVec.getLsbD_append (x := w.extractLsb' 25 7) (y := w.extractLsb' 7 5)

/-- The bits of a B-immediate (rule R105). -/
theorem getLsbD_immBOf (w : Word) (i : Nat) :
    (immBOf w).getLsbD i = if i < 1 then (0#1).getLsbD i else if i < 5 then (w.extractLsb' 8 4).getLsbD (i - 1)
      else if i < 11 then (w.extractLsb' 25 6).getLsbD (i - 5)
      else if i < 12 then (w.extractLsb' 7 1).getLsbD (i - 11) else (w.extractLsb' 31 1).getLsbD (i - 12) := by
  refine (BitVec.getLsbD_append (y := 0#1)).trans ?_
  simp only [BitVec.getLsbD_append]
  split <;> [rfl; skip]
  split_ifs <;> first | omega | rfl

/-- The bits of a J-immediate (rule R107). -/
theorem getLsbD_immJOf (w : Word) (i : Nat) :
    (immJOf w).getLsbD i = if i < 1 then (0#1).getLsbD i else if i < 11 then (w.extractLsb' 21 10).getLsbD (i - 1)
      else if i < 12 then (w.extractLsb' 20 1).getLsbD (i - 11)
      else if i < 20 then (w.extractLsb' 12 8).getLsbD (i - 12) else (w.extractLsb' 31 1).getLsbD (i - 20) := by
  refine (BitVec.getLsbD_append (y := 0#1)).trans ?_
  simp only [BitVec.getLsbD_append]
  split <;> [rfl; skip]
  split_ifs <;> first | omega | rfl

section
variable (f7 : BitVec 7) (rs2 rs1 : RegIdx) (f3 : BitVec 3) (rd : RegIdx) (op : BitVec 7)

@[simp] theorem encodeR_opcode : opcodeOf (encodeR f7 rs2 rs1 f3 rd op) = op := by
  ext i hi
  interval_cases i <;> simp [opcodeOf, encodeR, getElem_put]

@[simp] theorem encodeR_rd : rdOf (encodeR f7 rs2 rs1 f3 rd op) = rd := by
  ext i hi
  interval_cases i <;> simp [rdOf, encodeR, getElem_put]

@[simp] theorem encodeR_funct3 : funct3Of (encodeR f7 rs2 rs1 f3 rd op) = f3 := by
  ext i hi
  interval_cases i <;> simp [funct3Of, encodeR, getElem_put]

@[simp] theorem encodeR_rs1 : rs1Of (encodeR f7 rs2 rs1 f3 rd op) = rs1 := by
  ext i hi
  interval_cases i <;> simp [rs1Of, encodeR, getElem_put]

@[simp] theorem encodeR_rs2 : rs2Of (encodeR f7 rs2 rs1 f3 rd op) = rs2 := by
  ext i hi
  interval_cases i <;> simp [rs2Of, encodeR, getElem_put]

@[simp] theorem encodeR_mulBit : mulBitOf (encodeR f7 rs2 rs1 f3 rd op) = f7.getLsbD 0 := by
  simp [mulBitOf, encodeR, getElem_put]

@[simp] theorem encodeR_extraBit : extraBitOf (encodeR f7 rs2 rs1 f3 rd op) = f7.getLsbD 5 := by
  simp [extraBitOf, encodeR, getElem_put]

end

section
variable (imm : BitVec 12) (rs1 : RegIdx) (f3 : BitVec 3) (rd : RegIdx) (op : BitVec 7)

@[simp] theorem encodeI_opcode : opcodeOf (encodeI imm rs1 f3 rd op) = op := by
  ext i hi
  interval_cases i <;> simp [opcodeOf, encodeI, getElem_put]

@[simp] theorem encodeI_rd : rdOf (encodeI imm rs1 f3 rd op) = rd := by
  ext i hi
  interval_cases i <;> simp [rdOf, encodeI, getElem_put]

@[simp] theorem encodeI_funct3 : funct3Of (encodeI imm rs1 f3 rd op) = f3 := by
  ext i hi
  interval_cases i <;> simp [funct3Of, encodeI, getElem_put]

@[simp] theorem encodeI_rs1 : rs1Of (encodeI imm rs1 f3 rd op) = rs1 := by
  ext i hi
  interval_cases i <;> simp [rs1Of, encodeI, getElem_put]

@[simp] theorem encodeI_imm12 : imm12Of (encodeI imm rs1 f3 rd op) = imm := by
  ext i hi
  interval_cases i <;> simp [imm12Of, encodeI, getElem_put]

end

section
variable (imm : BitVec 12) (rs2 rs1 : RegIdx) (f3 : BitVec 3) (op : BitVec 7)

@[simp] theorem encodeS_opcode : opcodeOf (encodeS imm rs2 rs1 f3 op) = op := by
  ext i hi
  interval_cases i <;> simp [opcodeOf, encodeS, getElem_put]

@[simp] theorem encodeS_funct3 : funct3Of (encodeS imm rs2 rs1 f3 op) = f3 := by
  ext i hi
  interval_cases i <;> simp [funct3Of, encodeS, getElem_put]

@[simp] theorem encodeS_rs1 : rs1Of (encodeS imm rs2 rs1 f3 op) = rs1 := by
  ext i hi
  interval_cases i <;> simp [rs1Of, encodeS, getElem_put]

@[simp] theorem encodeS_rs2 : rs2Of (encodeS imm rs2 rs1 f3 op) = rs2 := by
  ext i hi
  interval_cases i <;> simp [rs2Of, encodeS, getElem_put]

@[simp] theorem encodeS_immS : immSOf (encodeS imm rs2 rs1 f3 op) = imm := by
  ext i hi
  rw [← BitVec.getLsbD_eq_getElem, getLsbD_immSOf]
  interval_cases i <;> simp [encodeS, getElem_put]

end

section
variable (imm : BitVec 13) (rs2 rs1 : RegIdx) (f3 : BitVec 3) (op : BitVec 7)

@[simp] theorem encodeB_opcode : opcodeOf (encodeB imm rs2 rs1 f3 op) = op := by
  ext i hi
  interval_cases i <;> simp [opcodeOf, encodeB, getElem_put]

@[simp] theorem encodeB_funct3 : funct3Of (encodeB imm rs2 rs1 f3 op) = f3 := by
  ext i hi
  interval_cases i <;> simp [funct3Of, encodeB, getElem_put]

@[simp] theorem encodeB_rs1 : rs1Of (encodeB imm rs2 rs1 f3 op) = rs1 := by
  ext i hi
  interval_cases i <;> simp [rs1Of, encodeB, getElem_put]

@[simp] theorem encodeB_rs2 : rs2Of (encodeB imm rs2 rs1 f3 op) = rs2 := by
  ext i hi
  interval_cases i <;> simp [rs2Of, encodeB, getElem_put]

/-- The B-immediate of an even offset: bit 0 has no place in the word (rule R105). -/
theorem encodeB_immB (h : imm.getLsbD 0 = false) : immBOf (encodeB imm rs2 rs1 f3 op) = imm := by
  ext i hi
  rw [← BitVec.getLsbD_eq_getElem, getLsbD_immBOf]
  interval_cases i <;> simp_all [encodeB, getElem_put]

end

section
variable (imm : BitVec 20) (rd : RegIdx) (op : BitVec 7)

@[simp] theorem encodeU_opcode : opcodeOf (encodeU imm rd op) = op := by
  ext i hi
  interval_cases i <;> simp [opcodeOf, encodeU, getElem_put]

@[simp] theorem encodeU_rd : rdOf (encodeU imm rd op) = rd := by
  ext i hi
  interval_cases i <;> simp [rdOf, encodeU, getElem_put]

@[simp] theorem encodeU_immU : immUOf (encodeU imm rd op) = imm := by
  ext i hi
  interval_cases i <;> simp [immUOf, encodeU, getElem_put]

end

section
variable (imm : BitVec 21) (rd : RegIdx) (op : BitVec 7)

@[simp] theorem encodeJ_opcode : opcodeOf (encodeJ imm rd op) = op := by
  ext i hi
  interval_cases i <;> simp [opcodeOf, encodeJ, getElem_put]

@[simp] theorem encodeJ_rd : rdOf (encodeJ imm rd op) = rd := by
  ext i hi
  interval_cases i <;> simp [rdOf, encodeJ, getElem_put]

/-- The J-immediate of an even offset: bit 0 has no place in the word (rule R107). -/
theorem encodeJ_immJ (h : imm.getLsbD 0 = false) : immJOf (encodeJ imm rd op) = imm := by
  ext i hi
  rw [← BitVec.getLsbD_eq_getElem, getLsbD_immJOf]
  interval_cases i <;> simp_all [encodeJ, getElem_put]

end

section
variable (f5 : BitVec 5) (aq rl : BitVec 1) (rs2 rs1 rd : RegIdx)

@[simp] theorem encodeAtomic_opcode : opcodeOf (encodeAtomic f5 aq rl rs2 rs1 rd) = 0x2F#7 := by
  ext i hi
  interval_cases i <;> simp [opcodeOf, encodeAtomic, getElem_put]

@[simp] theorem encodeAtomic_funct5 : funct5Of (encodeAtomic f5 aq rl rs2 rs1 rd) = f5 := by
  ext i hi
  interval_cases i <;> simp [funct5Of, encodeAtomic, getElem_put]

@[simp] theorem encodeAtomic_aq : aqOf (encodeAtomic f5 aq rl rs2 rs1 rd) = aq := by
  ext i hi
  interval_cases i; simp [aqOf, encodeAtomic, getElem_put]

@[simp] theorem encodeAtomic_rl : rlOf (encodeAtomic f5 aq rl rs2 rs1 rd) = rl := by
  ext i hi
  interval_cases i; simp [rlOf, encodeAtomic, getElem_put]

@[simp] theorem encodeAtomic_rs2 : rs2Of (encodeAtomic f5 aq rl rs2 rs1 rd) = rs2 := by
  ext i hi
  interval_cases i <;> simp [rs2Of, encodeAtomic, getElem_put]

@[simp] theorem encodeAtomic_rs1 : rs1Of (encodeAtomic f5 aq rl rs2 rs1 rd) = rs1 := by
  ext i hi
  interval_cases i <;> simp [rs1Of, encodeAtomic, getElem_put]

@[simp] theorem encodeAtomic_rd : rdOf (encodeAtomic f5 aq rl rs2 rs1 rd) = rd := by
  ext i hi
  interval_cases i <;> simp [rdOf, encodeAtomic, getElem_put]

end

section
variable (fm pred succ : BitVec 4)

@[simp] theorem encodeFence_opcode : opcodeOf (encodeFence fm pred succ) = 0x0F#7 := by
  ext i hi
  interval_cases i <;> simp [opcodeOf, encodeFence, getElem_put]

@[simp] theorem encodeFence_funct3 : funct3Of (encodeFence fm pred succ) = 0#3 := by
  ext i hi
  interval_cases i <;> simp [funct3Of, encodeFence, getElem_put]

@[simp] theorem encodeFence_fm : fmOf (encodeFence fm pred succ) = fm := by
  ext i hi
  interval_cases i <;> simp [fmOf, encodeFence, getElem_put]

@[simp] theorem encodeFence_pred : predOf (encodeFence fm pred succ) = pred := by
  ext i hi
  interval_cases i <;> simp [predOf, encodeFence, getElem_put]

@[simp] theorem encodeFence_succ : succOf (encodeFence fm pred succ) = succ := by
  ext i hi
  interval_cases i <;> simp [succOf, encodeFence, getElem_put]

end

end Sys2Proof
end

