-- ==== Sys2Proof/Laws/Exec.lean ====
section
/-! SUPPORT. What one instruction can do, said once: the seven ways `exec` ends, for every instruction and every state.
A proof over all instructions takes `exec_shape` apart and does not unfold a meaning. -/

namespace Sys2Proof.Machine

/-- The bytes a store writes: a memory that differs from `m` only in the `n` bytes at `a`, and keeps the canonical form and
lists no address but the old ones and those. -/
structure WrittenAt (m m' : Memory) (a : Word) (n : Nat) : Prop where
  frame : ∀ b, (∀ k, k < n → b ≠ byteAddr a k) → m'.read b = m.read b
  wf : m.wf → m'.wf
  listed : ∀ c ∈ m', c ∈ m ∨ ∃ k, k < n ∧ c.1 = byteAddr a k

/-- The ways an instruction ends. -/
inductive ExecShape (i : Instr) (s : State) : State → Prop where
  /-- A register write, or none for `rd = x0`, and the pc. -/
  | commit (rd : RegIdx) (v : Word) (h : destination i = some rd ∨ rd = 0#5) :
      ExecShape i s { s.setReg rd v with pc := nextPc s i, outcome := .continued }
  /-- A CSR instruction. -/
  | csr (rd : RegIdx) (csr : BitVec 12) (v : Word) (h : destination i = some rd) (hc : IsCsrInstr i)
      (hp : nextPc s i = s.pc + 4#32) :
      ExecShape i s { (s.csrWrite csr v).setReg rd (s.csrRead csr) with pc := s.pc + 4#32, outcome := .continued }
  /-- A write inside the buffer, with a register write or none. -/
  | store (rd : RegIdx) (v a : Word) (n : Nat) (m : Memory) (h : destination i = some rd ∨ rd = 0#5)
      (hr : storeRange s i = some (a, n)) (ha : s.inRam a = true) (hn : 0 < n ∧ n ≤ 4) (hm : WrittenAt s.mem m a n)
      (hp : nextPc s i = s.pc + 4#32) :
      ExecShape i s { (({ s with mem := m } : State).afterWrite a n).setReg rd v with
        pc := s.pc + 4#32, outcome := .continued }
  /-- `LR.W` inside the buffer. -/
  | reserve (rd : RegIdx) (a v : Word) (h : destination i = some rd) (hi : ∃ rs1 aq rl, i = .lrW rd rs1 aq rl) :
      ExecShape i s { (s.reserve a).setReg rd v with pc := s.pc + 4#32, outcome := .continued }
  /-- A store to a match half. -/
  | setMatch (rs2 rs1 : RegIdx) (imm : BitVec 12) (lo hi : Word) (hi' : IsStoreInstr i rs2 rs1 imm) :
      ExecShape i s { s with
        timermatchl := lo, timermatchh := hi, pc := s.pc + 4#32, outcome := .continued }
  /-- An early exit: `WFI`, or a store to the system-control address. -/
  | early (o : StepOutcome) (m : Word) (z : Bool)
      (h : (i = .wfi ∧ o = .sleeping ∧ z = true) ∨
        (m = s.mstatus ∧ z = s.sleep ∧ ∃ rs2 rs1 imm, IsStoreInstr i rs2 rs1 imm ∧
          displaced (s.reg rs1) imm = sysconAddr ∧ o = .shutdown (s.reg rs2)))
      (t : State) (ht : endEarly o { s with mstatus := m, sleep := z } = .next t) : ExecShape i s t
  /-- Trap entry. -/
  | trap (cause tval : Word) : ExecShape i s (enterTrap cause tval s)
  /-- `MRET`. -/
  | mret (hi : i = .mret) (t : State) (ht : returnFromTrap s = .next t) : ExecShape i s t

variable {i : Instr} {s : State}

/-- `exec` answers a next state, of one of the shapes. -/
def Shaped (i : Instr) (s : State) (r : Result) : Prop := ∃ t, r = .next t ∧ ExecShape i s t

theorem Shaped.writeBack {rd : RegIdx} {v : Word} (h : destination i = some rd) (hp : nextPc s i = s.pc + 4#32) :
    Shaped i s (writeBack rd v s) :=
  ⟨_, writeBack_eq s rd v, hp ▸ .commit rd v (.inl h)⟩

theorem Shaped.jumpTo {target : Word} (hp : nextPc s i = target) : Shaped i s (jumpTo target s) :=
  ⟨_, rfl, hp ▸ .commit 0#5 0#32 (.inr rfl)⟩

theorem Shaped.jumpWriting {rd : RegIdx} {v target : Word} (h : destination i = some rd) (hp : nextPc s i = target) :
    Shaped i s (Machine.jumpTo target (s.setReg rd v)) :=
  ⟨_, rfl, hp ▸ .commit rd v (.inl h)⟩

theorem Shaped.raise (e : Exception) (v : Word) : Shaped i s (raise e v s) := ⟨_, rfl, .trap e.code v⟩

/-- A branch, whose comparison `cond` is the one `nextPc` uses. -/
theorem Shaped.branch {cond : Word → Word → Bool} {rs1 rs2 : RegIdx} {offset : BitVec 13}
    (hp : nextPc s i = if cond (s.reg rs1) (s.reg rs2) = true then s.pc + offset.signExtend 32 else s.pc + 4#32) :
    Shaped i s (branch cond rs1 rs2 offset s) := by
  rcases branch_cases s cond rs1 rs2 offset with ⟨h, e⟩ | ⟨h, e⟩ <;> rw [e] <;> rw [h] at hp
  · exact .jumpTo hp
  · exact .jumpTo hp

theorem Shaped.load {rd rs1 : RegIdx} {imm : BitVec 12} {f : Word → State → Result} (h : destination i = some rd)
    (hp : nextPc s i = s.pc + 4#32) (hf : ∀ a, Shaped i s (f a s)) : Shaped i s (load rd rs1 imm f s) := by
  rcases load_cases s rd rs1 imm f with ⟨-, e⟩ | ⟨-, ⟨-, e⟩ | ⟨-, e⟩ | ⟨-, -, e⟩⟩ <;> rw [e]
  · exact hf _
  · exact .writeBack h hp
  · exact .writeBack h hp
  · exact .raise _ _

theorem Shaped.store {rs2 rs1 : RegIdx} {imm : BitVec 12} {f : Word → Word → State → Result}
    (hi : IsStoreInstr i rs2 rs1 imm) (hf : s.inRam (s.effAddr rs1 imm) = true →
      Shaped i s (f (s.effAddr rs1 imm) (s.reg rs2) s)) : Shaped i s (store rs2 rs1 imm f s) := by
  rcases store_cases s rs2 rs1 imm f with ⟨h, e⟩ | ⟨-, ⟨-, e⟩ | ⟨-, e⟩ | ⟨h, e⟩ | ⟨-, -, -, e⟩⟩ <;> rw [e]
  · exact hf h
  · exact ⟨_, rfl, .setMatch rs2 rs1 imm _ _ hi⟩
  · exact ⟨_, rfl, .setMatch rs2 rs1 imm _ _ hi⟩
  · exact ⟨_, rfl, .early _ s.mstatus s.sleep
      (.inr ⟨rfl, rfl, rs2, rs1, imm, hi, (effAddr_eq s rs1 imm).symm.trans h, rfl⟩) _ rfl⟩
  · exact .raise _ _

theorem Shaped.csr {rd : RegIdx} {csr : BitVec 12} {new : Word → Word} (h : destination i = some rd)
    (hc : IsCsrInstr i) (hp : nextPc s i = s.pc + 4#32) : Shaped i s (csrAccess rd csr new s) :=
  ⟨_, csrAccess_eq s rd csr new, .csr rd csr _ h hc hp⟩

theorem Shaped.atomic {rs1 : RegIdx} {op : Word → State → Result}
    (hf : s.inRam (s.reg rs1) = true → Shaped i s (op (s.reg rs1) s)) : Shaped i s (atomic rs1 op s) := by
  rcases atomic_cases s rs1 op with ⟨h, e⟩ | ⟨-, e⟩ <;> rw [e]
  · exact hf h
  · exact .raise _ _

/-! ### The bytes written -/

theorem Memory.writtenAt_write (m : Memory) (a : Word) (v : Byte) {k n : Nat} (hk : k < n) :
    WrittenAt m (m.write (byteAddr a k) v) a n where
  frame b hb := by rw [Memory.read_write, if_neg (hb k hk)]
  wf h := Memory.write_wf h (a + BitVec.ofNat 32 k).isLt v
  listed c hc := (Memory.mem_write hc).imp id fun h => ⟨k, hk, by rw [h.1]⟩

theorem WrittenAt.trans {m m' m'' : Memory} {a : Word} {n : Nat} (h : WrittenAt m m' a n) (h' : WrittenAt m' m'' a n) :
    WrittenAt m m'' a n where
  frame b hb := (h'.frame b hb).trans (h.frame b hb)
  wf hm := h'.wf (h.wf hm)
  listed c hc := (h'.listed c hc).elim (h.listed c) .inr

theorem writtenAt_write8 (a : Word) (v : Byte) : WrittenAt s.mem (s.write8 a v).mem a 1 := by
  have := Memory.writtenAt_write s.mem a v (k := 0) (n := 1) (by decide)
  simp only [byteAddr, BitVec.add_zero] at this
  exact this

theorem writtenAt_write16 (a : Word) (v : Half) : WrittenAt s.mem (s.write16 a v).mem a 2 := by
  have h0 := Memory.writtenAt_write s.mem a (v.extractLsb' 0 8) (k := 0) (n := 2) (by decide)
  have h1 := Memory.writtenAt_write (s.mem.write (byteAddr a 0) (v.extractLsb' 0 8)) a (v.extractLsb' 8 8) (k := 1)
    (n := 2) (by decide)
  have := h0.trans h1
  simp only [byteAddr, BitVec.add_zero] at this
  exact this

theorem writtenAt_write32 (a v : Word) : WrittenAt s.mem (s.write32 a v).mem a 4 := by
  have h := fun (m : Memory) (v : Byte) (k : Nat) (hk : k < 4) => Memory.writtenAt_write m a v hk
  have := (((h s.mem (v.extractLsb' 0 8) 0 (by decide)).trans (h _ (v.extractLsb' 8 8) 1 (by decide))).trans
    (h _ (v.extractLsb' 16 8) 2 (by decide))).trans (h _ (v.extractLsb' 24 8) 3 (by decide))
  simp only [byteAddr, BitVec.add_zero] at this
  exact this

theorem Shaped.storeEnd {u : State} {a : Word} {n : Nat} (hu : u = { s with mem := u.mem })
    (hr : storeRange s i = some (a, n)) (ha : s.inRam a = true) (hn : 0 < n ∧ n ≤ 4) (hm : WrittenAt s.mem u.mem a n)
    (hp : nextPc s i = s.pc + 4#32) : Shaped i s (finish (u.afterWrite a n)) := by
  refine ⟨_, rfl, ?_⟩
  have := ExecShape.store (i := i) 0#5 0#32 a n u.mem (.inr rfl) hr ha hn hm hp
  rw [hu]
  exact this

theorem Shaped.amo {f : Word → Word → Word} {rd rs2 rs1 : RegIdx} (h : destination i = some rd)
    (hr : s.inRam (s.reg rs1) = true → storeRange s i = some (s.reg rs1, 4)) (hp : nextPc s i = s.pc + 4#32) :
    Shaped i s (amo f rd rs2 rs1 s) :=
  .atomic fun ha => ⟨_, rfl, .store rd _ _ 4 _ (.inl h) (hr ha) ha (by decide) (writtenAt_write32 _ _) hp⟩

/-- Every instruction answers a next state, of one of the shapes. -/
theorem exec_shape (i : Instr) (s : State) : Shaped i s (exec i s) := by
  cases i with
  | jal rd offset => exact .jumpWriting rfl rfl
  | jalr rd rs1 imm => exact .jumpWriting rfl rfl
  | beq rs1 rs2 offset =>
    change Shaped _ s (execBeq rs1 rs2 offset s)
    unfold execBeq
    exact .branch (show (if s.reg rs1 = s.reg rs2 then _ else _) = _ by simp)
  | bne rs1 rs2 offset =>
    change Shaped _ s (execBne rs1 rs2 offset s)
    unfold execBne
    exact .branch (show (if s.reg rs1 ≠ s.reg rs2 then _ else _) = _ by simp)
  | blt rs1 rs2 offset =>
    change Shaped _ s (execBlt rs1 rs2 offset s)
    unfold execBlt
    exact .branch (show (if (s.reg rs1).toInt < (s.reg rs2).toInt then _ else _) = _ by simp [BitVec.slt])
  | bge rs1 rs2 offset =>
    change Shaped _ s (execBge rs1 rs2 offset s)
    unfold execBge
    exact .branch (show (if (s.reg rs2).toInt ≤ (s.reg rs1).toInt then _ else _) = _ by simp [BitVec.slt])
  | bltu rs1 rs2 offset =>
    change Shaped _ s (execBltu rs1 rs2 offset s)
    unfold execBltu
    exact .branch (show (if (s.reg rs1).toNat < (s.reg rs2).toNat then _ else _) = _ by simp [BitVec.ult])
  | bgeu rs1 rs2 offset =>
    change Shaped _ s (execBgeu rs1 rs2 offset s)
    unfold execBgeu
    exact .branch (show (if (s.reg rs2).toNat ≤ (s.reg rs1).toNat then _ else _) = _ by simp [BitVec.ult])
  | lb rd rs1 imm =>
    change Shaped _ s (execLb rd rs1 imm s)
    unfold execLb
    exact .load rfl rfl fun _ => .writeBack rfl rfl
  | lh rd rs1 imm =>
    change Shaped _ s (execLh rd rs1 imm s)
    unfold execLh
    exact .load rfl rfl fun _ => .writeBack rfl rfl
  | lw rd rs1 imm =>
    change Shaped _ s (execLw rd rs1 imm s)
    unfold execLw
    exact .load rfl rfl fun _ => .writeBack rfl rfl
  | lbu rd rs1 imm =>
    change Shaped _ s (execLbu rd rs1 imm s)
    unfold execLbu
    exact .load rfl rfl fun _ => .writeBack rfl rfl
  | lhu rd rs1 imm =>
    change Shaped _ s (execLhu rd rs1 imm s)
    unfold execLhu
    exact .load rfl rfl fun _ => .writeBack rfl rfl
  | loadRsv rd rs1 imm funct3 =>
    change Shaped _ s (execLoadRsv rd rs1 imm s)
    unfold execLoadRsv
    exact .load rfl rfl fun _ => .raise _ _
  | sb rs2 rs1 imm =>
    change Shaped _ s (execSb rs2 rs1 imm s)
    unfold execSb
    exact .store (.inl rfl) fun h => .storeEnd rfl (if_pos h) h (by decide) (writtenAt_write8 _ _) rfl
  | sh rs2 rs1 imm =>
    change Shaped _ s (execSh rs2 rs1 imm s)
    unfold execSh
    exact .store (.inr (.inl rfl)) fun h => .storeEnd rfl (if_pos h) h (by decide) (writtenAt_write16 _ _) rfl
  | sw rs2 rs1 imm =>
    change Shaped _ s (execSw rs2 rs1 imm s)
    unfold execSw
    exact .store (.inr (.inr (.inl rfl))) fun h => .storeEnd rfl (if_pos h) h (by decide) (writtenAt_write32 _ _) rfl
  | storeRsv rs2 rs1 imm funct3 =>
    change Shaped _ s (execStoreRsv rs2 rs1 imm s)
    unfold execStoreRsv
    exact .store (.inr (.inr (.inr ⟨_, rfl⟩))) fun _ => .raise _ _
  | fence fm pred succ => exact .jumpTo rfl
  | fenceI => exact .jumpTo rfl
  | fenceOther funct3 => exact .jumpTo rfl
  | csrrw rd csr rs1 =>
    change Shaped _ s (execCsrrw rd csr rs1 s)
    unfold execCsrrw
    exact .csr rfl ⟨_, _, _, .inl rfl⟩ rfl
  | csrrs rd csr rs1 =>
    change Shaped _ s (execCsrrs rd csr rs1 s)
    unfold execCsrrs
    exact .csr rfl ⟨_, _, _, .inr (.inl rfl)⟩ rfl
  | csrrc rd csr rs1 =>
    change Shaped _ s (execCsrrc rd csr rs1 s)
    unfold execCsrrc
    exact .csr rfl ⟨_, _, _, .inr (.inr (.inl rfl))⟩ rfl
  | csrrwi rd csr uimm =>
    change Shaped _ s (execCsrrwi rd csr uimm s)
    unfold execCsrrwi
    exact .csr rfl ⟨_, _, _, .inr (.inr (.inr (.inl rfl)))⟩ rfl
  | csrrsi rd csr uimm =>
    change Shaped _ s (execCsrrsi rd csr uimm s)
    unfold execCsrrsi
    exact .csr rfl ⟨_, _, _, .inr (.inr (.inr (.inr (.inl rfl))))⟩ rfl
  | csrrci rd csr uimm =>
    change Shaped _ s (execCsrrci rd csr uimm s)
    unfold execCsrrci
    exact .csr rfl ⟨_, _, _, .inr (.inr (.inr (.inr (.inr rfl))))⟩ rfl
  | ecall =>
    change Shaped _ s (if s.priv = 0#2 then _ else _)
    split <;> exact .raise _ _
  | ebreak => exact .raise _ _
  | illegal word => exact .raise _ _
  | wfi => exact ⟨_, rfl, .early _ _ _ (.inl ⟨rfl, rfl, rfl⟩) _ rfl⟩
  | mret => exact ⟨_, rfl, .mret rfl _ rfl⟩
  | lrW rd rs1 aq rl =>
    change Shaped _ s (execLrW rd rs1 s)
    unfold execLrW
    exact .atomic fun _ => ⟨_, rfl, .reserve rd _ _ rfl ⟨_, _, _, rfl⟩⟩
  | scW rd rs2 rs1 aq rl =>
    change Shaped _ s (execScW rd rs2 rs1 s)
    unfold execScW
    refine .atomic fun h => ?_
    by_cases hr : s.reserved (s.reg rs1) = true
    · rw [if_pos hr]
      exact ⟨_, rfl, .store rd _ _ 4 _ (.inl rfl) (by simp [storeRange, h, hr]) h (by decide) (writtenAt_write32 _ _) rfl⟩
    · rw [if_neg hr]
      exact .writeBack rfl rfl
  | amoswapW rd rs2 rs1 aq rl =>
    change Shaped _ s (execAmoswapW rd rs2 rs1 s)
    unfold execAmoswapW
    exact .amo rfl (fun h => if_pos h) rfl
  | amoaddW rd rs2 rs1 aq rl =>
    change Shaped _ s (execAmoaddW rd rs2 rs1 s)
    unfold execAmoaddW
    exact .amo rfl (fun h => if_pos h) rfl
  | amoxorW rd rs2 rs1 aq rl =>
    change Shaped _ s (execAmoxorW rd rs2 rs1 s)
    unfold execAmoxorW
    exact .amo rfl (fun h => if_pos h) rfl
  | amoandW rd rs2 rs1 aq rl =>
    change Shaped _ s (execAmoandW rd rs2 rs1 s)
    unfold execAmoandW
    exact .amo rfl (fun h => if_pos h) rfl
  | amoorW rd rs2 rs1 aq rl =>
    change Shaped _ s (execAmoorW rd rs2 rs1 s)
    unfold execAmoorW
    exact .amo rfl (fun h => if_pos h) rfl
  | amominW rd rs2 rs1 aq rl =>
    change Shaped _ s (execAmominW rd rs2 rs1 s)
    unfold execAmominW
    exact .amo rfl (fun h => if_pos h) rfl
  | amomaxW rd rs2 rs1 aq rl =>
    change Shaped _ s (execAmomaxW rd rs2 rs1 s)
    unfold execAmomaxW
    exact .amo rfl (fun h => if_pos h) rfl
  | amominuW rd rs2 rs1 aq rl =>
    change Shaped _ s (execAmominuW rd rs2 rs1 s)
    unfold execAmominuW
    exact .amo rfl (fun h => if_pos h) rfl
  | amomaxuW rd rs2 rs1 aq rl =>
    change Shaped _ s (execAmomaxuW rd rs2 rs1 s)
    unfold execAmomaxuW
    exact .amo rfl (fun h => if_pos h) rfl
  | amoRsv rs1 funct5 =>
    change Shaped _ s (execAmoRsv rs1 s)
    unfold execAmoRsv
    exact .atomic fun _ => .raise _ _
  | _ => exact .writeBack rfl rfl

/-! ## Steps and runs -/

/-- What an instruction that answered has done. -/
theorem shape_of_exec {t : State} (h : exec i s = .next t) : ExecShape i s t := by
  obtain ⟨u, h1, h2⟩ := exec_shape i s
  cases h1.symm.trans h
  exact h2

/-- Stages 3 and 4: a fetch exception, or the decoded instruction. -/
theorem attempt_cases (s : State) :
    (∃ e, fetch s = .error e ∧ attempt exec s = raise e s.pc s) ∨
      (Fetchable s ∧ attempt exec s = exec (decode (s.read32 s.pc)) s) := by
  unfold attempt
  rcases fetch_cases s with ⟨-, h⟩ | ⟨-, -, h⟩ | ⟨hr, ha, h⟩ <;> rw [h]
  · exact .inl ⟨_, rfl, rfl⟩
  · exact .inl ⟨_, rfl, rfl⟩
  · refine .inr ⟨⟨hr, ?_⟩, rfl⟩
    rw [← BitVec.toNat_inj, BitVec.extractLsb'_toNat] at ha
    simpa [State.off] using ha

/-- What a step that answered has done: slept, taken the interrupt, faulted in fetch, or executed the instruction at the pc. -/
theorem shape_of_stepWith {e : Word} {t : State} (h : stepWith e s = .next t) :
    (StaysAsleep e s ∧ t = { timerStage e s with outcome := .sleeping }) ∨
      (¬StaysAsleep e s ∧ InterruptDue e s ∧ t = takeInterrupt (timerStage e s)) ∨
      (Attempts e s ∧ ∃ x, fetch (countCycle (timerStage e s)) = .error x ∧
        t = enterTrap x.code s.pc (countCycle (timerStage e s))) ∨
      (Attempts e s ∧ Fetchable s ∧ decodeBytes (pcBytes s) = .ok (decode (s.read32 s.pc), []) ∧
        exec (decode (s.read32 s.pc)) (countCycle (timerStage e s)) = .next t) := by
  rcases stepWith_cases s e with ⟨-, h'⟩ | ⟨hw, ⟨a, h'⟩ | ⟨a, b, h'⟩ | ⟨a, b, h'⟩⟩
  · cases h.symm.trans h'
  · cases h.symm.trans h'
    exact .inl ⟨(sleep_iff s e).1 a, rfl⟩
  · cases h.symm.trans h'
    exact .inr (.inl ⟨fun hc => by simp [(sleep_iff s e).2 hc] at a, (interruptReady_iff s e).1 b, rfl⟩)
  · have hA : Attempts e s := ⟨hw, fun hc => by simp [(sleep_iff s e).2 hc] at a,
      fun hc => by simp [(interruptReady_iff s e).2 hc] at b⟩
    rcases attempt_cases (countCycle (timerStage e s)) with ⟨x, hx, h2⟩ | ⟨hf, h2⟩
    · cases h.symm.trans (h'.trans h2)
      exact .inr (.inr (.inl ⟨hA, x, hx, rfl⟩))
    · exact .inr (.inr (.inr ⟨hA, hf, decodeBytes_pcBytes s, (h'.trans h2).symm.trans h⟩))

theorem run_zero (s : State) : core.run 0 s = .next s := rfl

theorem run_eq (M : Host.Core) (k : Nat) (s : M.State) : M.run (k + 1) s = match M.step s with
    | .next t => M.run k t
    | .fault r => .fault r
    | .refused r => .refused r := rfl

/-- One step and then `k` more. -/
theorem run_succ {k : Nat} {s t : State} (h : step s = .next t) : core.run (k + 1) s = core.run k t := by
  have e := run_eq core k s
  have h' : core.step s = .next t := h
  rw [h'] at e
  exact e

end Sys2Proof.Machine
end

