-- ==== Sys2Proof/Laws/PerInstr.lean ====
section
/-! SUPPORT. One statement per instruction: its canonical word belongs to its row of spec/opcode_table.json (rules R119,
R146). The host uses it per constructor. -/


namespace Sys2Proof.Laws.Row

/-- The encoder's word for a well-formed instruction is covered by the mask and match of the instruction's row. -/
def Statement (i : Instr) : Prop := i.wf = true → i.row.covers (encode i) = true

/-- A mask cuts a field out of a word as it cuts the field. -/
theorem put_and {n : Nat} (f : BitVec n) (lo : Nat) (m : Word) :
    put f lo &&& m = put (f &&& m.extractLsb' lo n) lo := by
  ext i hi
  simp only [BitVec.getElem_and, getElem_put, BitVec.getLsbD_and, BitVec.getLsbD_extractLsb']
  by_cases h : i < lo
  · simp [h]
  · by_cases hn : i - lo < n
    · simp [h, hn, show lo + (i - lo) = i by omega, BitVec.getLsbD_eq_getElem hi]
    · simp [h, hn, BitVec.getLsbD_of_ge f (i - lo) (by omega)]

theorem or_and_word (a b m : Word) : (a ||| b) &&& m = (a &&& m) ||| (b &&& m) := by
  ext i hi
  simp [Bool.and_or_distrib_right]

@[simp] theorem put_zero (n lo : Nat) : put (0#n) lo = 0#32 := by simp [put]

theorem covers_of_and {i : Instr} (m p : Word) (hm : i.row.mask = m) (hp : i.row.pattern = p)
    (h : encode i &&& m = p) : i.row.covers (encode i) = true := by
  simp [Row.covers, hm, hp, h]

theorem lui (rd : RegIdx) (imm : BitVec 20) : Statement (.lui rd imm) := fun _ =>
  covers_of_and 0x0000007F#32 0x00000037#32 rfl rfl (by simp [encode, encodeU, or_and_word, put_and]; rfl)

theorem auipc (rd : RegIdx) (imm : BitVec 20) : Statement (.auipc rd imm) := fun _ =>
  covers_of_and 0x0000007F#32 0x00000017#32 rfl rfl (by simp [encode, encodeU, or_and_word, put_and]; rfl)

theorem jal (rd : RegIdx) (offset : BitVec 21) : Statement (.jal rd offset) := fun _ =>
  covers_of_and 0x0000007F#32 0x0000006F#32 rfl rfl (by simp [encode, encodeJ, or_and_word, put_and]; rfl)

theorem jalr (rd rs1 : RegIdx) (imm : BitVec 12) : Statement (.jalr rd rs1 imm) := fun _ =>
  covers_of_and 0x0000007F#32 0x00000067#32 rfl rfl (by simp [encode, encodeI, or_and_word, put_and]; rfl)

theorem beq (rs1 rs2 : RegIdx) (offset : BitVec 13) : Statement (.beq rs1 rs2 offset) := fun _ =>
  covers_of_and 0x0000707F#32 0x00000063#32 rfl rfl (by simp [encode, encodeB, or_and_word, put_and]; rfl)

theorem bne (rs1 rs2 : RegIdx) (offset : BitVec 13) : Statement (.bne rs1 rs2 offset) := fun _ =>
  covers_of_and 0x0000707F#32 0x00001063#32 rfl rfl (by simp [encode, encodeB, or_and_word, put_and]; rfl)

theorem blt (rs1 rs2 : RegIdx) (offset : BitVec 13) : Statement (.blt rs1 rs2 offset) := fun _ =>
  covers_of_and 0x0000707F#32 0x00004063#32 rfl rfl (by simp [encode, encodeB, or_and_word, put_and]; rfl)

theorem bge (rs1 rs2 : RegIdx) (offset : BitVec 13) : Statement (.bge rs1 rs2 offset) := fun _ =>
  covers_of_and 0x0000707F#32 0x00005063#32 rfl rfl (by simp [encode, encodeB, or_and_word, put_and]; rfl)

theorem bltu (rs1 rs2 : RegIdx) (offset : BitVec 13) : Statement (.bltu rs1 rs2 offset) := fun _ =>
  covers_of_and 0x0000707F#32 0x00006063#32 rfl rfl (by simp [encode, encodeB, or_and_word, put_and]; rfl)

theorem bgeu (rs1 rs2 : RegIdx) (offset : BitVec 13) : Statement (.bgeu rs1 rs2 offset) := fun _ =>
  covers_of_and 0x0000707F#32 0x00007063#32 rfl rfl (by simp [encode, encodeB, or_and_word, put_and]; rfl)

theorem lb (rd rs1 : RegIdx) (imm : BitVec 12) : Statement (.lb rd rs1 imm) := fun _ =>
  covers_of_and 0x0000707F#32 0x00000003#32 rfl rfl (by simp [encode, encodeI, or_and_word, put_and]; rfl)

theorem lh (rd rs1 : RegIdx) (imm : BitVec 12) : Statement (.lh rd rs1 imm) := fun _ =>
  covers_of_and 0x0000707F#32 0x00001003#32 rfl rfl (by simp [encode, encodeI, or_and_word, put_and]; rfl)

theorem lw (rd rs1 : RegIdx) (imm : BitVec 12) : Statement (.lw rd rs1 imm) := fun _ =>
  covers_of_and 0x0000707F#32 0x00002003#32 rfl rfl (by simp [encode, encodeI, or_and_word, put_and]; rfl)

theorem lbu (rd rs1 : RegIdx) (imm : BitVec 12) : Statement (.lbu rd rs1 imm) := fun _ =>
  covers_of_and 0x0000707F#32 0x00004003#32 rfl rfl (by simp [encode, encodeI, or_and_word, put_and]; rfl)

theorem lhu (rd rs1 : RegIdx) (imm : BitVec 12) : Statement (.lhu rd rs1 imm) := fun _ =>
  covers_of_and 0x0000707F#32 0x00005003#32 rfl rfl (by simp [encode, encodeI, or_and_word, put_and]; rfl)

theorem sb (rs2 rs1 : RegIdx) (imm : BitVec 12) : Statement (.sb rs2 rs1 imm) := fun _ =>
  covers_of_and 0x0000707F#32 0x00000023#32 rfl rfl (by simp [encode, encodeS, or_and_word, put_and]; rfl)

theorem sh (rs2 rs1 : RegIdx) (imm : BitVec 12) : Statement (.sh rs2 rs1 imm) := fun _ =>
  covers_of_and 0x0000707F#32 0x00001023#32 rfl rfl (by simp [encode, encodeS, or_and_word, put_and]; rfl)

theorem sw (rs2 rs1 : RegIdx) (imm : BitVec 12) : Statement (.sw rs2 rs1 imm) := fun _ =>
  covers_of_and 0x0000707F#32 0x00002023#32 rfl rfl (by simp [encode, encodeS, or_and_word, put_and]; rfl)

theorem addi (rd rs1 : RegIdx) (imm : BitVec 12) : Statement (.addi rd rs1 imm) := fun _ =>
  covers_of_and 0x0000707F#32 0x00000013#32 rfl rfl (by simp [encode, encodeI, or_and_word, put_and]; rfl)

theorem slti (rd rs1 : RegIdx) (imm : BitVec 12) : Statement (.slti rd rs1 imm) := fun _ =>
  covers_of_and 0x0000707F#32 0x00002013#32 rfl rfl (by simp [encode, encodeI, or_and_word, put_and]; rfl)

theorem sltiu (rd rs1 : RegIdx) (imm : BitVec 12) : Statement (.sltiu rd rs1 imm) := fun _ =>
  covers_of_and 0x0000707F#32 0x00003013#32 rfl rfl (by simp [encode, encodeI, or_and_word, put_and]; rfl)

theorem xori (rd rs1 : RegIdx) (imm : BitVec 12) : Statement (.xori rd rs1 imm) := fun _ =>
  covers_of_and 0x0000707F#32 0x00004013#32 rfl rfl (by simp [encode, encodeI, or_and_word, put_and]; rfl)

theorem ori (rd rs1 : RegIdx) (imm : BitVec 12) : Statement (.ori rd rs1 imm) := fun _ =>
  covers_of_and 0x0000707F#32 0x00006013#32 rfl rfl (by simp [encode, encodeI, or_and_word, put_and]; rfl)

theorem andi (rd rs1 : RegIdx) (imm : BitVec 12) : Statement (.andi rd rs1 imm) := fun _ =>
  covers_of_and 0x0000707F#32 0x00007013#32 rfl rfl (by simp [encode, encodeI, or_and_word, put_and]; rfl)

theorem slli (rd rs1 : RegIdx) (shamt : BitVec 5) : Statement (.slli rd rs1 shamt) := fun _ =>
  covers_of_and 0x0000707F#32 0x00001013#32 rfl rfl (by simp [encode, encodeR, or_and_word, put_and]; rfl)

theorem srli (rd rs1 : RegIdx) (shamt : BitVec 5) : Statement (.srli rd rs1 shamt) := fun _ =>
  covers_of_and 0x4000707F#32 0x00005013#32 rfl rfl (by simp [encode, encodeR, or_and_word, put_and]; rfl)

theorem srai (rd rs1 : RegIdx) (shamt : BitVec 5) : Statement (.srai rd rs1 shamt) := fun _ =>
  covers_of_and 0x4000707F#32 0x40005013#32 rfl rfl (by simp [encode, encodeR, or_and_word, put_and]; rfl)

theorem add (rd rs1 rs2 : RegIdx) : Statement (.add rd rs1 rs2) := fun _ =>
  covers_of_and 0x4200707F#32 0x00000033#32 rfl rfl (by simp [encode, encodeR, or_and_word, put_and]; rfl)

theorem sub (rd rs1 rs2 : RegIdx) : Statement (.sub rd rs1 rs2) := fun _ =>
  covers_of_and 0x4200707F#32 0x40000033#32 rfl rfl (by simp [encode, encodeR, or_and_word, put_and]; rfl)

theorem sll (rd rs1 rs2 : RegIdx) : Statement (.sll rd rs1 rs2) := fun _ =>
  covers_of_and 0x0200707F#32 0x00001033#32 rfl rfl (by simp [encode, encodeR, or_and_word, put_and]; rfl)

theorem slt (rd rs1 rs2 : RegIdx) : Statement (.slt rd rs1 rs2) := fun _ =>
  covers_of_and 0x0200707F#32 0x00002033#32 rfl rfl (by simp [encode, encodeR, or_and_word, put_and]; rfl)

theorem sltu (rd rs1 rs2 : RegIdx) : Statement (.sltu rd rs1 rs2) := fun _ =>
  covers_of_and 0x0200707F#32 0x00003033#32 rfl rfl (by simp [encode, encodeR, or_and_word, put_and]; rfl)

theorem xor (rd rs1 rs2 : RegIdx) : Statement (.xor rd rs1 rs2) := fun _ =>
  covers_of_and 0x0200707F#32 0x00004033#32 rfl rfl (by simp [encode, encodeR, or_and_word, put_and]; rfl)

theorem srl (rd rs1 rs2 : RegIdx) : Statement (.srl rd rs1 rs2) := fun _ =>
  covers_of_and 0x4200707F#32 0x00005033#32 rfl rfl (by simp [encode, encodeR, or_and_word, put_and]; rfl)

theorem sra (rd rs1 rs2 : RegIdx) : Statement (.sra rd rs1 rs2) := fun _ =>
  covers_of_and 0x4200707F#32 0x40005033#32 rfl rfl (by simp [encode, encodeR, or_and_word, put_and]; rfl)

theorem or (rd rs1 rs2 : RegIdx) : Statement (.or rd rs1 rs2) := fun _ =>
  covers_of_and 0x0200707F#32 0x00006033#32 rfl rfl (by simp [encode, encodeR, or_and_word, put_and]; rfl)

theorem and (rd rs1 rs2 : RegIdx) : Statement (.and rd rs1 rs2) := fun _ =>
  covers_of_and 0x0200707F#32 0x00007033#32 rfl rfl (by simp [encode, encodeR, or_and_word, put_and]; rfl)

theorem mul (rd rs1 rs2 : RegIdx) : Statement (.mul rd rs1 rs2) := fun _ =>
  covers_of_and 0x0200707F#32 0x02000033#32 rfl rfl (by simp [encode, encodeR, or_and_word, put_and]; rfl)

theorem mulh (rd rs1 rs2 : RegIdx) : Statement (.mulh rd rs1 rs2) := fun _ =>
  covers_of_and 0x0200707F#32 0x02001033#32 rfl rfl (by simp [encode, encodeR, or_and_word, put_and]; rfl)

theorem mulhsu (rd rs1 rs2 : RegIdx) : Statement (.mulhsu rd rs1 rs2) := fun _ =>
  covers_of_and 0x0200707F#32 0x02002033#32 rfl rfl (by simp [encode, encodeR, or_and_word, put_and]; rfl)

theorem mulhu (rd rs1 rs2 : RegIdx) : Statement (.mulhu rd rs1 rs2) := fun _ =>
  covers_of_and 0x0200707F#32 0x02003033#32 rfl rfl (by simp [encode, encodeR, or_and_word, put_and]; rfl)

theorem div (rd rs1 rs2 : RegIdx) : Statement (.div rd rs1 rs2) := fun _ =>
  covers_of_and 0x0200707F#32 0x02004033#32 rfl rfl (by simp [encode, encodeR, or_and_word, put_and]; rfl)

theorem divu (rd rs1 rs2 : RegIdx) : Statement (.divu rd rs1 rs2) := fun _ =>
  covers_of_and 0x0200707F#32 0x02005033#32 rfl rfl (by simp [encode, encodeR, or_and_word, put_and]; rfl)

theorem rem (rd rs1 rs2 : RegIdx) : Statement (.rem rd rs1 rs2) := fun _ =>
  covers_of_and 0x0200707F#32 0x02006033#32 rfl rfl (by simp [encode, encodeR, or_and_word, put_and]; rfl)

theorem remu (rd rs1 rs2 : RegIdx) : Statement (.remu rd rs1 rs2) := fun _ =>
  covers_of_and 0x0200707F#32 0x02007033#32 rfl rfl (by simp [encode, encodeR, or_and_word, put_and]; rfl)

theorem fence (fm pred succ : BitVec 4) : Statement (.fence fm pred succ) := fun _ =>
  covers_of_and 0x0000707F#32 0x0000000F#32 rfl rfl (by simp [encode, encodeFence, or_and_word, put_and]; rfl)

theorem fenceI : Statement (.fenceI) := fun _ =>
  covers_of_and 0x0000707F#32 0x0000100F#32 rfl rfl (by decide)

theorem csrrw (rd : RegIdx) (csr : BitVec 12) (rs1 : RegIdx) : Statement (.csrrw rd csr rs1) := fun _ =>
  covers_of_and 0x0000707F#32 0x00001073#32 rfl rfl (by simp [encode, encodeI, or_and_word, put_and]; rfl)

theorem csrrs (rd : RegIdx) (csr : BitVec 12) (rs1 : RegIdx) : Statement (.csrrs rd csr rs1) := fun _ =>
  covers_of_and 0x0000707F#32 0x00002073#32 rfl rfl (by simp [encode, encodeI, or_and_word, put_and]; rfl)

theorem csrrc (rd : RegIdx) (csr : BitVec 12) (rs1 : RegIdx) : Statement (.csrrc rd csr rs1) := fun _ =>
  covers_of_and 0x0000707F#32 0x00003073#32 rfl rfl (by simp [encode, encodeI, or_and_word, put_and]; rfl)

theorem csrrwi (rd : RegIdx) (csr : BitVec 12) (uimm : BitVec 5) : Statement (.csrrwi rd csr uimm) := fun _ =>
  covers_of_and 0x0000707F#32 0x00005073#32 rfl rfl (by simp [encode, encodeI, or_and_word, put_and]; rfl)

theorem csrrsi (rd : RegIdx) (csr : BitVec 12) (uimm : BitVec 5) : Statement (.csrrsi rd csr uimm) := fun _ =>
  covers_of_and 0x0000707F#32 0x00006073#32 rfl rfl (by simp [encode, encodeI, or_and_word, put_and]; rfl)

theorem csrrci (rd : RegIdx) (csr : BitVec 12) (uimm : BitVec 5) : Statement (.csrrci rd csr uimm) := fun _ =>
  covers_of_and 0x0000707F#32 0x00007073#32 rfl rfl (by simp [encode, encodeI, or_and_word, put_and]; rfl)

theorem ecall : Statement (.ecall) := fun _ =>
  covers_of_and 0xFFF0707F#32 0x00000073#32 rfl rfl (by decide)

theorem ebreak : Statement (.ebreak) := fun _ =>
  covers_of_and 0xFFF0707F#32 0x00100073#32 rfl rfl (by decide)

theorem wfi : Statement (.wfi) := fun _ =>
  covers_of_and 0xFFF0707F#32 0x10500073#32 rfl rfl (by decide)

theorem mret : Statement (.mret) := fun _ =>
  covers_of_and 0xFFF0707F#32 0x30200073#32 rfl rfl (by decide)

theorem lrW (rd rs1 : RegIdx) (aq rl : BitVec 1) : Statement (.lrW rd rs1 aq rl) := fun _ =>
  covers_of_and 0xF800007F#32 0x1000002F#32 rfl rfl (by simp [encode, encodeAtomic, or_and_word, put_and]; rfl)

theorem scW (rd rs2 rs1 : RegIdx) (aq rl : BitVec 1) : Statement (.scW rd rs2 rs1 aq rl) := fun _ =>
  covers_of_and 0xF800007F#32 0x1800002F#32 rfl rfl (by simp [encode, encodeAtomic, or_and_word, put_and]; rfl)

theorem amoswapW (rd rs2 rs1 : RegIdx) (aq rl : BitVec 1) : Statement (.amoswapW rd rs2 rs1 aq rl) := fun _ =>
  covers_of_and 0xF800007F#32 0x0800002F#32 rfl rfl (by simp [encode, encodeAtomic, or_and_word, put_and]; rfl)

theorem amoaddW (rd rs2 rs1 : RegIdx) (aq rl : BitVec 1) : Statement (.amoaddW rd rs2 rs1 aq rl) := fun _ =>
  covers_of_and 0xF800007F#32 0x0000002F#32 rfl rfl (by simp [encode, encodeAtomic, or_and_word, put_and]; rfl)

theorem amoxorW (rd rs2 rs1 : RegIdx) (aq rl : BitVec 1) : Statement (.amoxorW rd rs2 rs1 aq rl) := fun _ =>
  covers_of_and 0xF800007F#32 0x2000002F#32 rfl rfl (by simp [encode, encodeAtomic, or_and_word, put_and]; rfl)

theorem amoandW (rd rs2 rs1 : RegIdx) (aq rl : BitVec 1) : Statement (.amoandW rd rs2 rs1 aq rl) := fun _ =>
  covers_of_and 0xF800007F#32 0x6000002F#32 rfl rfl (by simp [encode, encodeAtomic, or_and_word, put_and]; rfl)

theorem amoorW (rd rs2 rs1 : RegIdx) (aq rl : BitVec 1) : Statement (.amoorW rd rs2 rs1 aq rl) := fun _ =>
  covers_of_and 0xF800007F#32 0x4000002F#32 rfl rfl (by simp [encode, encodeAtomic, or_and_word, put_and]; rfl)

theorem amominW (rd rs2 rs1 : RegIdx) (aq rl : BitVec 1) : Statement (.amominW rd rs2 rs1 aq rl) := fun _ =>
  covers_of_and 0xF800007F#32 0x8000002F#32 rfl rfl (by simp [encode, encodeAtomic, or_and_word, put_and]; rfl)

theorem amomaxW (rd rs2 rs1 : RegIdx) (aq rl : BitVec 1) : Statement (.amomaxW rd rs2 rs1 aq rl) := fun _ =>
  covers_of_and 0xF800007F#32 0xA000002F#32 rfl rfl (by simp [encode, encodeAtomic, or_and_word, put_and]; rfl)

theorem amominuW (rd rs2 rs1 : RegIdx) (aq rl : BitVec 1) : Statement (.amominuW rd rs2 rs1 aq rl) := fun _ =>
  covers_of_and 0xF800007F#32 0xC000002F#32 rfl rfl (by simp [encode, encodeAtomic, or_and_word, put_and]; rfl)

theorem amomaxuW (rd rs2 rs1 : RegIdx) (aq rl : BitVec 1) : Statement (.amomaxuW rd rs2 rs1 aq rl) := fun _ =>
  covers_of_and 0xF800007F#32 0xE000002F#32 rfl rfl (by simp [encode, encodeAtomic, or_and_word, put_and]; rfl)

theorem fenceOther (funct3 : BitVec 3) : Statement (.fenceOther funct3) := fun _ =>
  covers_of_and 0x0000007F#32 0x0000000F#32 rfl rfl (by simp [encode, encodeI, or_and_word, put_and]; rfl)

theorem loadRsv (rd rs1 : RegIdx) (imm : BitVec 12) (funct3 : BitVec 3) : Statement (.loadRsv rd rs1 imm funct3) := fun _ =>
  covers_of_and 0x0000007F#32 0x00000003#32 rfl rfl (by simp [encode, encodeI, or_and_word, put_and]; rfl)

theorem storeRsv (rs2 rs1 : RegIdx) (imm : BitVec 12) (funct3 : BitVec 3) : Statement (.storeRsv rs2 rs1 imm funct3) := fun _ =>
  covers_of_and 0x0000007F#32 0x00000023#32 rfl rfl (by simp [encode, encodeS, or_and_word, put_and]; rfl)

theorem amoRsv (rs1 : RegIdx) (funct5 : BitVec 5) : Statement (.amoRsv rs1 funct5) := fun _ =>
  covers_of_and 0x0000007F#32 0x0000002F#32 rfl rfl (by simp [encode, encodeAtomic, or_and_word, put_and]; rfl)

theorem illegal (word : Word) : Statement (.illegal word) := fun _ => by
  change (word &&& 0#32 == 0#32) = true
  simp

end Sys2Proof.Laws.Row
end

