-- ==== Sys2Proof/Tests/Slice0.lean ====
section
/-! SUPPORT. Tests of the model and witnesses for the statements. Expected values come from the spec: encodings from
30_encoding.md, single steps from the test vectors of 95_test_vectors.md and 96_test_vectors_system.md (each test names its
vector). Every witness shows that the hypotheses of a statement can be met. -/

namespace Sys2Proof.Tests

open Sys2Proof Sys2Proof.Machine

/-! ## Well-formedness: a term each check refuses -/

theorem test_wf_jal : (Instr.jal 1 5).wf = false ∧ (Instr.jal 1 4).wf = true := by decide

theorem test_wf_branches :
    [Instr.beq 1 2 3, .bne 1 2 3, .blt 1 2 3, .bge 1 2 3, .bltu 1 2 3, .bgeu 1 2 3].map Instr.wf =
      [false, false, false, false, false, false] := by decide

theorem test_wf_fenceOther : [0#3, 1#3, 2#3].map (fun f => (Instr.fenceOther f).wf) = [false, false, true] := by decide

theorem test_wf_loadRsv :
    [0#3, 1#3, 2#3, 4#3, 5#3, 3#3, 6#3, 7#3].map (fun f => (Instr.loadRsv 5 2 0 f).wf) =
      [false, false, false, false, false, true, true, true] := by decide

theorem test_wf_storeRsv :
    [0#3, 1#3, 2#3, 3#3, 7#3].map (fun f => (Instr.storeRsv 5 2 0 f).wf) = [false, false, false, true, true] := by decide

theorem test_wf_amoRsv :
    (definedFunct5.map fun f => (Instr.amoRsv 6 f).wf) = List.replicate 11 false ∧ (Instr.amoRsv 6 5).wf = true := by decide

/-- A word of another row is no `ILLEGAL`: `nop`, `ecall`, an atomic. -/
theorem test_wf_illegal :
    [0x00000013#32, 0x00000073#32, 0x287322AF#32, 0x00002063#32, 0x00000000#32].map (fun w => (Instr.illegal w).wf) =
      [false, false, false, true, true] := by decide

/-! ## Decoding: words put together field by field, most significant first (rules R100 to R118) -/

theorem test_decode_lui : decode (0x12345#20 ++ 5#5 ++ 0b0110111#7) = .lui 5 0x12345 := by decide

theorem test_decode_auipc : decode (0xFFFFF#20 ++ 10#5 ++ 0b0010111#7) = .auipc 10 0xFFFFF := by decide

theorem test_decode_jal :
    decode (1#1 ++ 0b1111111110#10 ++ 1#1 ++ 0b11111111#8 ++ 0#5 ++ 0b1101111#7) = .jal 0 (BitVec.ofInt 21 (-4)) := by decide

theorem test_decode_jalr :
    decode (0xFFF#12 ++ 1#5 ++ 0b000#3 ++ 5#5 ++ 0b1100111#7) = .jalr 5 1 (BitVec.ofInt 12 (-1)) := by decide

theorem test_decode_beq :
    decode (1#1 ++ 0b111111#6 ++ 2#5 ++ 1#5 ++ 0b000#3 ++ 0b1100#4 ++ 1#1 ++ 0b1100011#7) = .beq 1 2 (BitVec.ofInt 13 (-8)) := by decide

theorem test_decode_bne :
    decode (1#1 ++ 0b111111#6 ++ 2#5 ++ 1#5 ++ 0b001#3 ++ 0b1100#4 ++ 1#1 ++ 0b1100011#7) = .bne 1 2 (BitVec.ofInt 13 (-8)) := by decide

theorem test_decode_blt :
    decode (1#1 ++ 0b111111#6 ++ 2#5 ++ 1#5 ++ 0b100#3 ++ 0b1100#4 ++ 1#1 ++ 0b1100011#7) = .blt 1 2 (BitVec.ofInt 13 (-8)) := by decide

theorem test_decode_bge :
    decode (1#1 ++ 0b111111#6 ++ 2#5 ++ 1#5 ++ 0b101#3 ++ 0b1100#4 ++ 1#1 ++ 0b1100011#7) = .bge 1 2 (BitVec.ofInt 13 (-8)) := by decide

theorem test_decode_bltu :
    decode (1#1 ++ 0b111111#6 ++ 2#5 ++ 1#5 ++ 0b110#3 ++ 0b1100#4 ++ 1#1 ++ 0b1100011#7) = .bltu 1 2 (BitVec.ofInt 13 (-8)) := by decide

theorem test_decode_bgeu :
    decode (1#1 ++ 0b111111#6 ++ 2#5 ++ 1#5 ++ 0b111#3 ++ 0b1100#4 ++ 1#1 ++ 0b1100011#7) = .bgeu 1 2 (BitVec.ofInt 13 (-8)) := by decide

theorem test_decode_lb :
    decode (0xFFC#12 ++ 2#5 ++ 0b000#3 ++ 5#5 ++ 0b0000011#7) = .lb 5 2 (BitVec.ofInt 12 (-4)) := by decide

theorem test_decode_lh :
    decode (0xFFC#12 ++ 2#5 ++ 0b001#3 ++ 5#5 ++ 0b0000011#7) = .lh 5 2 (BitVec.ofInt 12 (-4)) := by decide

theorem test_decode_lw :
    decode (0xFFC#12 ++ 2#5 ++ 0b010#3 ++ 5#5 ++ 0b0000011#7) = .lw 5 2 (BitVec.ofInt 12 (-4)) := by decide

theorem test_decode_lbu :
    decode (0xFFC#12 ++ 2#5 ++ 0b100#3 ++ 5#5 ++ 0b0000011#7) = .lbu 5 2 (BitVec.ofInt 12 (-4)) := by decide

theorem test_decode_lhu :
    decode (0xFFC#12 ++ 2#5 ++ 0b101#3 ++ 5#5 ++ 0b0000011#7) = .lhu 5 2 (BitVec.ofInt 12 (-4)) := by decide

theorem test_decode_sb :
    decode (0b1111111#7 ++ 5#5 ++ 2#5 ++ 0b000#3 ++ 0b11100#5 ++ 0b0100011#7) = .sb 5 2 (BitVec.ofInt 12 (-4)) := by decide

theorem test_decode_sh :
    decode (0b1111111#7 ++ 5#5 ++ 2#5 ++ 0b001#3 ++ 0b11100#5 ++ 0b0100011#7) = .sh 5 2 (BitVec.ofInt 12 (-4)) := by decide

theorem test_decode_sw :
    decode (0b1111111#7 ++ 5#5 ++ 2#5 ++ 0b010#3 ++ 0b11100#5 ++ 0b0100011#7) = .sw 5 2 (BitVec.ofInt 12 (-4)) := by decide

theorem test_decode_addi :
    decode (0x800#12 ++ 1#5 ++ 0b000#3 ++ 5#5 ++ 0b0010011#7) = .addi 5 1 (BitVec.ofInt 12 (-2048)) := by decide

theorem test_decode_slti :
    decode (0x800#12 ++ 1#5 ++ 0b010#3 ++ 5#5 ++ 0b0010011#7) = .slti 5 1 (BitVec.ofInt 12 (-2048)) := by decide

theorem test_decode_sltiu :
    decode (0x800#12 ++ 1#5 ++ 0b011#3 ++ 5#5 ++ 0b0010011#7) = .sltiu 5 1 (BitVec.ofInt 12 (-2048)) := by decide

theorem test_decode_xori :
    decode (0x800#12 ++ 1#5 ++ 0b100#3 ++ 5#5 ++ 0b0010011#7) = .xori 5 1 (BitVec.ofInt 12 (-2048)) := by decide

theorem test_decode_ori :
    decode (0x800#12 ++ 1#5 ++ 0b110#3 ++ 5#5 ++ 0b0010011#7) = .ori 5 1 (BitVec.ofInt 12 (-2048)) := by decide

theorem test_decode_andi :
    decode (0x800#12 ++ 1#5 ++ 0b111#3 ++ 5#5 ++ 0b0010011#7) = .andi 5 1 (BitVec.ofInt 12 (-2048)) := by decide

theorem test_decode_slli :
    decode (0b0000000#7 ++ 31#5 ++ 1#5 ++ 0b001#3 ++ 5#5 ++ 0b0010011#7) = .slli 5 1 31 := by decide

theorem test_decode_srli :
    decode (0b0000000#7 ++ 31#5 ++ 1#5 ++ 0b101#3 ++ 5#5 ++ 0b0010011#7) = .srli 5 1 31 := by decide

theorem test_decode_srai :
    decode (0b0100000#7 ++ 31#5 ++ 1#5 ++ 0b101#3 ++ 5#5 ++ 0b0010011#7) = .srai 5 1 31 := by decide

theorem test_decode_add :
    decode (0b0000000#7 ++ 2#5 ++ 1#5 ++ 0b000#3 ++ 5#5 ++ 0b0110011#7) = .add 5 1 2 := by decide

theorem test_decode_sub :
    decode (0b0100000#7 ++ 2#5 ++ 1#5 ++ 0b000#3 ++ 5#5 ++ 0b0110011#7) = .sub 5 1 2 := by decide

theorem test_decode_sll :
    decode (0b0000000#7 ++ 2#5 ++ 1#5 ++ 0b001#3 ++ 5#5 ++ 0b0110011#7) = .sll 5 1 2 := by decide

theorem test_decode_slt :
    decode (0b0000000#7 ++ 2#5 ++ 1#5 ++ 0b010#3 ++ 5#5 ++ 0b0110011#7) = .slt 5 1 2 := by decide

theorem test_decode_sltu :
    decode (0b0000000#7 ++ 2#5 ++ 1#5 ++ 0b011#3 ++ 5#5 ++ 0b0110011#7) = .sltu 5 1 2 := by decide

theorem test_decode_xor :
    decode (0b0000000#7 ++ 2#5 ++ 1#5 ++ 0b100#3 ++ 5#5 ++ 0b0110011#7) = .xor 5 1 2 := by decide

theorem test_decode_srl :
    decode (0b0000000#7 ++ 2#5 ++ 1#5 ++ 0b101#3 ++ 5#5 ++ 0b0110011#7) = .srl 5 1 2 := by decide

theorem test_decode_sra :
    decode (0b0100000#7 ++ 2#5 ++ 1#5 ++ 0b101#3 ++ 5#5 ++ 0b0110011#7) = .sra 5 1 2 := by decide

theorem test_decode_or : decode (0b0000000#7 ++ 2#5 ++ 1#5 ++ 0b110#3 ++ 5#5 ++ 0b0110011#7) = .or 5 1 2 := by decide

theorem test_decode_and :
    decode (0b0000000#7 ++ 2#5 ++ 1#5 ++ 0b111#3 ++ 5#5 ++ 0b0110011#7) = .and 5 1 2 := by decide

theorem test_decode_mul :
    decode (0b0000001#7 ++ 2#5 ++ 1#5 ++ 0b000#3 ++ 5#5 ++ 0b0110011#7) = .mul 5 1 2 := by decide

theorem test_decode_mulh :
    decode (0b0000001#7 ++ 2#5 ++ 1#5 ++ 0b001#3 ++ 5#5 ++ 0b0110011#7) = .mulh 5 1 2 := by decide

theorem test_decode_mulhsu :
    decode (0b0000001#7 ++ 2#5 ++ 1#5 ++ 0b010#3 ++ 5#5 ++ 0b0110011#7) = .mulhsu 5 1 2 := by decide

theorem test_decode_mulhu :
    decode (0b0000001#7 ++ 2#5 ++ 1#5 ++ 0b011#3 ++ 5#5 ++ 0b0110011#7) = .mulhu 5 1 2 := by decide

theorem test_decode_div :
    decode (0b0000001#7 ++ 2#5 ++ 1#5 ++ 0b100#3 ++ 5#5 ++ 0b0110011#7) = .div 5 1 2 := by decide

theorem test_decode_divu :
    decode (0b0000001#7 ++ 2#5 ++ 1#5 ++ 0b101#3 ++ 5#5 ++ 0b0110011#7) = .divu 5 1 2 := by decide

theorem test_decode_rem :
    decode (0b0000001#7 ++ 2#5 ++ 1#5 ++ 0b110#3 ++ 5#5 ++ 0b0110011#7) = .rem 5 1 2 := by decide

theorem test_decode_remu :
    decode (0b0000001#7 ++ 2#5 ++ 1#5 ++ 0b111#3 ++ 5#5 ++ 0b0110011#7) = .remu 5 1 2 := by decide

theorem test_decode_fence :
    decode (0b1000#4 ++ 0b0011#4 ++ 0b0011#4 ++ 0#5 ++ 0b000#3 ++ 0#5 ++ 0b0001111#7) = .fence 8 3 3 := by decide

theorem test_decode_fenceI : decode (0#12 ++ 0#5 ++ 0b001#3 ++ 0#5 ++ 0b0001111#7) = .fenceI := by decide

theorem test_decode_csrrw : decode (0x340#12 ++ 6#5 ++ 0b001#3 ++ 5#5 ++ 0b1110011#7) = .csrrw 5 0x340 6 := by decide

theorem test_decode_csrrs : decode (0x340#12 ++ 6#5 ++ 0b010#3 ++ 5#5 ++ 0b1110011#7) = .csrrs 5 0x340 6 := by decide

theorem test_decode_csrrc : decode (0x340#12 ++ 6#5 ++ 0b011#3 ++ 5#5 ++ 0b1110011#7) = .csrrc 5 0x340 6 := by decide

theorem test_decode_csrrwi :
    decode (0x340#12 ++ 6#5 ++ 0b101#3 ++ 5#5 ++ 0b1110011#7) = .csrrwi 5 0x340 6 := by decide

theorem test_decode_csrrsi :
    decode (0x340#12 ++ 6#5 ++ 0b110#3 ++ 5#5 ++ 0b1110011#7) = .csrrsi 5 0x340 6 := by decide

theorem test_decode_csrrci :
    decode (0x340#12 ++ 6#5 ++ 0b111#3 ++ 5#5 ++ 0b1110011#7) = .csrrci 5 0x340 6 := by decide

theorem test_decode_ecall : decode (0x000#12 ++ 0#5 ++ 0b000#3 ++ 0#5 ++ 0b1110011#7) = .ecall := by decide

theorem test_decode_ebreak : decode (0x001#12 ++ 0#5 ++ 0b000#3 ++ 0#5 ++ 0b1110011#7) = .ebreak := by decide

theorem test_decode_wfi : decode (0x105#12 ++ 0#5 ++ 0b000#3 ++ 0#5 ++ 0b1110011#7) = .wfi := by decide

theorem test_decode_mret : decode (0x302#12 ++ 0#5 ++ 0b000#3 ++ 0#5 ++ 0b1110011#7) = .mret := by decide

theorem test_decode_lrW :
    decode (0b00010#5 ++ 1#1 ++ 0#1 ++ 0#5 ++ 6#5 ++ 0b010#3 ++ 5#5 ++ 0b0101111#7) = .lrW 5 6 1 0 := by decide

theorem test_decode_scW :
    decode (0b00011#5 ++ 0#1 ++ 1#1 ++ 7#5 ++ 6#5 ++ 0b010#3 ++ 5#5 ++ 0b0101111#7) = .scW 5 7 6 0 1 := by decide

theorem test_decode_amoswapW :
    decode (0b00001#5 ++ 0#1 ++ 1#1 ++ 7#5 ++ 6#5 ++ 0b010#3 ++ 5#5 ++ 0b0101111#7) = .amoswapW 5 7 6 0 1 := by decide

theorem test_decode_amoaddW :
    decode (0b00000#5 ++ 0#1 ++ 1#1 ++ 7#5 ++ 6#5 ++ 0b010#3 ++ 5#5 ++ 0b0101111#7) = .amoaddW 5 7 6 0 1 := by decide

theorem test_decode_amoxorW :
    decode (0b00100#5 ++ 0#1 ++ 1#1 ++ 7#5 ++ 6#5 ++ 0b010#3 ++ 5#5 ++ 0b0101111#7) = .amoxorW 5 7 6 0 1 := by decide

theorem test_decode_amoandW :
    decode (0b01100#5 ++ 0#1 ++ 1#1 ++ 7#5 ++ 6#5 ++ 0b010#3 ++ 5#5 ++ 0b0101111#7) = .amoandW 5 7 6 0 1 := by decide

theorem test_decode_amoorW :
    decode (0b01000#5 ++ 0#1 ++ 1#1 ++ 7#5 ++ 6#5 ++ 0b010#3 ++ 5#5 ++ 0b0101111#7) = .amoorW 5 7 6 0 1 := by decide

theorem test_decode_amominW :
    decode (0b10000#5 ++ 0#1 ++ 1#1 ++ 7#5 ++ 6#5 ++ 0b010#3 ++ 5#5 ++ 0b0101111#7) = .amominW 5 7 6 0 1 := by decide

theorem test_decode_amomaxW :
    decode (0b10100#5 ++ 0#1 ++ 1#1 ++ 7#5 ++ 6#5 ++ 0b010#3 ++ 5#5 ++ 0b0101111#7) = .amomaxW 5 7 6 0 1 := by decide

theorem test_decode_amominuW :
    decode (0b11000#5 ++ 0#1 ++ 1#1 ++ 7#5 ++ 6#5 ++ 0b010#3 ++ 5#5 ++ 0b0101111#7) = .amominuW 5 7 6 0 1 := by decide

theorem test_decode_amomaxuW :
    decode (0b11100#5 ++ 0#1 ++ 1#1 ++ 7#5 ++ 6#5 ++ 0b010#3 ++ 5#5 ++ 0b0101111#7) = .amomaxuW 5 7 6 0 1 := by decide

theorem test_decode_fenceOther : decode (0#12 ++ 0#5 ++ 0b010#3 ++ 0#5 ++ 0b0001111#7) = .fenceOther 2 := by decide

theorem test_decode_loadRsv : decode (4#12 ++ 2#5 ++ 0b011#3 ++ 5#5 ++ 0b0000011#7) = .loadRsv 5 2 4 3 := by decide

theorem test_decode_storeRsv :
    decode (0#7 ++ 5#5 ++ 2#5 ++ 0b111#3 ++ 4#5 ++ 0b0100011#7) = .storeRsv 5 2 4 7 := by decide

theorem test_decode_amoRsv :
    decode (0b00101#5 ++ 0#1 ++ 0#1 ++ 7#5 ++ 6#5 ++ 0b010#3 ++ 5#5 ++ 0b0101111#7) = .amoRsv 6 5 := by decide

theorem test_decode_illegal : decode (0#25 ++ 0b0000111#7) = .illegal 7 := by decide

/-- The host's numbering: the word's bits from the least significant on, laid out little-endian for the decoder. -/
theorem test_decodeTableWord :
    decodeTableWord 32 0x00012283 = some (.lw 5 2 0) ∧ decodeTableWord 32 0x0FF0000F = some (.fence 0 15 15) := by decide

/-! ## One step, from the spec's vectors -/

/-- The state after one step with this `elapsed`. -/
def stepped (e : Word) (s : State) : Option State :=
  match stepWith e s with
  | .next t => some t
  | _ => none

/-- The state after one step with this instruction word at the pc. -/
def ran (e w : Word) (s : State) : Option State := stepped e (s.withFetchWord 32 w.toNat)

/-- The bytes of the load vectors, `mem[0x10..]`. -/
def fiveBytes : State :=
  ((((State.reset.write8 0x80000010#32 0x78#8).write8 0x80000011#32 0x56#8).write8 0x80000012#32 0x34#8).write8
    0x80000013#32 0x92#8).write8 0x80000014#32 0xAB#8

/-- The word 42 at buffer offset 0x100. -/
def word2A : State := State.reset.write32 0x80000100#32 0x0000002A#32

/-- The start of vector V261: an interrupt is due once `elapsed` is 6. -/
def due : State :=
  { State.reset with
    pc := 0x80000024#32, timermatchl := 0x00000064#32, timerl := 0x0000005F#32, mie := 0x00000080#32
    mstatus := 0x00000008#32, mtvec := 0x80000100#32 }

/-- `extraflags` at reset: machine mode, awake, no reservation (rules R40, R400). -/
theorem test_reset_extraflags : State.reset.extraflags = 3#32 := by decide

/-- From reset the very next step runs the placed word, whatever the free `elapsed` is: with MATCH 0 nothing is pending. -/
theorem test_first_step :
    (match step (State.reset.withFetchWord 32 0x123452B7) with
      | .next t => some (t.reg 5, t.pc)
      | _ => none) = some (0x12345000#32, 0x80000004#32) := by rfl

/-- V1: `lui x5, 0x12345`, rule R160. -/
theorem test_lui_v1 : (ran 0#32 0x123452B7#32 State.reset).map (fun t => t.reg 5) = some 0x12345000#32 := by decide

/-- V2: `lui x1, 0xFFFFF`, rule R160; no sign extension needed. -/
theorem test_lui_v2 : (ran 0#32 0xFFFFF0B7#32 State.reset).map (fun t => t.reg 1) = some 0xFFFFF000#32 := by decide

/-- V4: `auipc x10, 1`, rule R161. -/
theorem test_auipc_v4 : (ran 0#32 0x00001517#32 State.reset).map (fun t => t.reg 10) = some 0x80001000#32 := by decide

/-- V5: `auipc x5, 0xFFFFF`, rule R161; wraps modulo 2^32. -/
theorem test_auipc_v5 :
    (ran 0#32 0xFFFFF297#32 { State.reset with pc := 0x80000010#32 }).map (fun t => (t.reg 5, t.pc)) =
      some (0x7FFFF010#32, 0x80000014#32) := by decide

/-- V7: `jal x1, 8`, rule R170; the document's scenario with P = 0x80000000. -/
theorem test_jal_v7 :
    (ran 0#32 0x008000EF#32 State.reset).map (fun t => (t.reg 1, t.pc)) =
      some (0x80000004#32, 0x80000008#32) := by decide

/-- V8: `jal x0, -4`, rule R170; backward, no link. -/
theorem test_jal_v8 :
    (ran 0#32 0xFFDFF06F#32 { State.reset with pc := 0x80000010#32 }).map (fun t => t.pc) =
      some 0x8000000C#32 := by decide

/-- V13: `jalr x1, 4(x1)`, rule R171; rd = rs1 uses old x1. -/
theorem test_jalr_v13 :
    (ran 0#32 0x004080E7#32
        (({ State.reset with pc := 0x80000100#32 }).setReg 1 0x80000200#32)).map
      (fun t => (t.reg 1, t.pc)) =
      some (0x80000104#32, 0x80000204#32) := by decide

/-- V15: `jalr x5, 3(x1)`, rule R171; 0x80000013 & ~1: bit 1 survives. -/
theorem test_jalr_v15 :
    (ran 0#32 0x003082E7#32 (State.reset.setReg 1 0x80000010#32)).map (fun t => (t.reg 5, t.pc)) =
      some (0x80000004#32, 0x80000012#32) := by decide

/-- V17: `beq x1, x2, 16`, rule R173. -/
theorem test_beq_v17 :
    (ran 0#32 0x00208863#32 ((State.reset.setReg 1 0x00000007#32).setReg 2 0x00000007#32)).map (fun t => t.pc) =
      some 0x80000010#32 := by decide

/-- V32: `beq x1, x2, -8`, rule R173; backward. -/
theorem test_beq_v32 :
    (ran 0#32 0xFE208CE3#32
        ((({ State.reset with pc := 0x80000010#32 }).setReg 1 0x00000007#32).setReg 2 0x00000007#32)).map
      (fun t => t.pc) =
      some 0x80000008#32 := by decide

/-- V19: `bne x1, x2, 16`, rule R174. -/
theorem test_bne_v19 :
    (ran 0#32 0x00209863#32 ((State.reset.setReg 1 0x00000007#32).setReg 2 0x00000008#32)).map (fun t => t.pc) =
      some 0x80000010#32 := by decide

/-- V20: `bne x1, x2, 16`, rule R174. -/
theorem test_bne_v20 :
    (ran 0#32 0x00209863#32 ((State.reset.setReg 1 0x00000007#32).setReg 2 0x00000007#32)).map (fun t => t.pc) =
      some 0x80000004#32 := by decide

/-- V21: `blt x1, x2, 16`, rule R175. -/
theorem test_blt_v21 :
    (ran 0#32 0x0020C863#32 ((State.reset.setReg 1 0xFFFFFFFF#32).setReg 2 0x00000001#32)).map (fun t => t.pc) =
      some 0x80000010#32 := by decide

/-- V22: `blt x1, x2, 16`, rule R175. -/
theorem test_blt_v22 :
    (ran 0#32 0x0020C863#32 ((State.reset.setReg 1 0x00000001#32).setReg 2 0xFFFFFFFF#32)).map (fun t => t.pc) =
      some 0x80000004#32 := by decide

/-- V24: `bge x1, x2, 16`, rule R176. -/
theorem test_bge_v24 :
    (ran 0#32 0x0020D863#32 ((State.reset.setReg 1 0xFFFFFFFF#32).setReg 2 0x00000001#32)).map (fun t => t.pc) =
      some 0x80000004#32 := by decide

/-- V26: `bge x1, x2, 16`, rule R176. -/
theorem test_bge_v26 :
    (ran 0#32 0x0020D863#32 ((State.reset.setReg 1 0x7FFFFFFF#32).setReg 2 0x80000000#32)).map (fun t => t.pc) =
      some 0x80000010#32 := by decide

/-- V27: `bltu x1, x2, 16`, rule R177. -/
theorem test_bltu_v27 :
    (ran 0#32 0x0020E863#32 ((State.reset.setReg 1 0xFFFFFFFF#32).setReg 2 0x00000001#32)).map (fun t => t.pc) =
      some 0x80000004#32 := by decide

/-- V28: `bltu x1, x2, 16`, rule R177. -/
theorem test_bltu_v28 :
    (ran 0#32 0x0020E863#32 ((State.reset.setReg 1 0x00000001#32).setReg 2 0xFFFFFFFF#32)).map (fun t => t.pc) =
      some 0x80000010#32 := by decide

/-- V29: `bgeu x1, x2, 16`, rule R178. -/
theorem test_bgeu_v29 :
    (ran 0#32 0x0020F863#32 ((State.reset.setReg 1 0xFFFFFFFF#32).setReg 2 0x00000001#32)).map (fun t => t.pc) =
      some 0x80000010#32 := by decide

/-- V31: `bgeu x1, x2, 16`, rule R178. -/
theorem test_bgeu_v31 :
    (ran 0#32 0x0020F863#32 ((State.reset.setReg 1 0x00000000#32).setReg 2 0x00000001#32)).map (fun t => t.pc) =
      some 0x80000004#32 := by decide

/-- V38: `lb x5, 3(x2)`, rule R191. -/
theorem test_lb_v38 :
    (ran 0#32 0x00310283#32 (fiveBytes.setReg 2 0x80000010#32)).map (fun t => t.reg 5) =
      some 0xFFFFFF92#32 := by decide

/-- V57: `lb x7, -8(x6)`, rule R72, decision D25; width ignored: whole word. -/
theorem test_lb_v57 :
    (ran 0#32 0xFF830383#32
        (({ State.reset with timerl := 0x89ABCDEF#32, timerh := 0x01234567#32 }).setReg 6 0x1100C000#32)).map
      (fun t => t.reg 7) =
      some 0x89ABCDEF#32 := by decide

/-- V43: `lh x5, 2(x2)`, rule R192; sign bit set. -/
theorem test_lh_v43 :
    (ran 0#32 0x00211283#32 (fiveBytes.setReg 2 0x80000010#32)).map (fun t => t.reg 5) =
      some 0xFFFF9234#32 := by decide

/-- V46: `lh x5, 3(x2)`, rule R192; misaligned across a word boundary. -/
theorem test_lh_v46 :
    (ran 0#32 0x00311283#32 (fiveBytes.setReg 2 0x80000010#32)).map (fun t => t.reg 5) =
      some 0xFFFFAB92#32 := by decide

/-- V45: `lw x5, 1(x2)`, rule R193; misaligned, performed. -/
theorem test_lw_v45 :
    (ran 0#32 0x00112283#32 (fiveBytes.setReg 2 0x80000010#32)).map (fun t => t.reg 5) =
      some 0xAB923456#32 := by decide

/-- V52: `lw x5, -1(x2)`, rule R66; below the buffer. -/
theorem test_lw_v52 :
    (ran 0#32 0xFFF12283#32
        (({ State.reset with mtvec := 0x80000100#32 }).setReg 2 0x80000000#32)).map
      (fun t => (t.pc, t.mstatus, t.mcause, t.mtval)) =
      some (0x80000100#32, 0x00001800#32, 0x00000005#32, 0x7FFFFFFF#32) := by decide

/-- V41: `lbu x5, 3(x2)`, rule R194. -/
theorem test_lbu_v41 :
    (ran 0#32 0x00314283#32 (fiveBytes.setReg 2 0x80000010#32)).map (fun t => t.reg 5) =
      some 0x00000092#32 := by decide

/-- V44: `lhu x5, 2(x2)`, rule R195. -/
theorem test_lhu_v44 :
    (ran 0#32 0x00215283#32 (fiveBytes.setReg 2 0x80000010#32)).map (fun t => t.reg 5) =
      some 0x00009234#32 := by decide

/-- V63: `sb x5, 1(x2)`, rule R201. -/
theorem test_sb_v63 :
    (ran 0#32 0x005100A3#32
        ((State.reset.setReg 5 0x12345678#32).setReg 2 0x80000010#32)).map
      (fun t => t.read8 0x80000011#32) =
      some 0x78#8 := by decide

/-- V74: `sb x7, 0(x6)`, rule R73, decision D25; width ignored: whole word written. -/
theorem test_sb_v74 :
    (ran 0#32 0x00730023#32
        ((State.reset.setReg 6 0x11004000#32).setReg 7 0x12345678#32)).map
      (fun t => t.timermatchl) =
      some 0x12345678#32 := by decide

/-- V67: `sh x5, 3(x2)`, rule R202; misaligned. -/
theorem test_sh_v67 :
    (ran 0#32 0x005111A3#32
        ((State.reset.setReg 5 0x12345678#32).setReg 2 0x80000010#32)).map
      (fun t => t.read16 0x80000013#32) =
      some 0x5678#16 := by decide

/-- V66: `sw x5, 1(x2)`, rule R203; misaligned, performed. -/
theorem test_sw_v66 :
    (ran 0#32 0x005120A3#32
        ((State.reset.setReg 5 0x12345678#32).setReg 2 0x80000010#32)).map
      (fun t => t.read32 0x80000011#32) =
      some 0x12345678#32 := by decide

/-- V77: `sw x7, 0(x6)`, rule R207; `CYCLE_ON_EARLY_EXIT = true`. -/
theorem test_sw_v77 :
    (ran 0#32 0x00732023#32
        ((({ State.reset with pc := 0x80000030#32 }).setReg 6 0x11100000#32).setReg 7 0x00005555#32)).map
      (fun t => (t.outcome, t.pc, t.cyclel)) =
      some (.shutdown 0x00005555#32, 0x80000034#32, 0x00000001#32) := by decide

/-- V82: `addi x5, x1, -1`, rule R221. -/
theorem test_addi_v82 :
    (ran 0#32 0xFFF08293#32 ((State.reset.setReg 1 0x00000000#32).setReg 5 0x0000DEAD#32)).map (fun t => t.reg 5) =
      some 0xFFFFFFFF#32 := by decide

/-- V85: `addi x5, x1, -2048`, rule R221. -/
theorem test_addi_v85 :
    (ran 0#32 0x80008293#32 ((State.reset.setReg 1 0x00000000#32).setReg 5 0x0000DEAD#32)).map (fun t => t.reg 5) =
      some 0xFFFFF800#32 := by decide

/-- V86: `slti x5, x1, 0`, rule R222. -/
theorem test_slti_v86 :
    (ran 0#32 0x0000A293#32 ((State.reset.setReg 1 0xFFFFFFFF#32).setReg 5 0x0000DEAD#32)).map (fun t => t.reg 5) =
      some 0x00000001#32 := by decide

/-- V88: `slti x5, x1, -2048`, rule R222. -/
theorem test_slti_v88 :
    (ran 0#32 0x8000A293#32 ((State.reset.setReg 1 0x80000000#32).setReg 5 0x0000DEAD#32)).map (fun t => t.reg 5) =
      some 0x00000001#32 := by decide

/-- V90: `sltiu x5, x1, -1`, rule R223. -/
theorem test_sltiu_v90 :
    (ran 0#32 0xFFF0B293#32 ((State.reset.setReg 1 0xFFFFFFFE#32).setReg 5 0x0000DEAD#32)).map (fun t => t.reg 5) =
      some 0x00000001#32 := by decide

/-- V91: `sltiu x5, x1, -1`, rule R223. -/
theorem test_sltiu_v91 :
    (ran 0#32 0xFFF0B293#32 ((State.reset.setReg 1 0xFFFFFFFF#32).setReg 5 0x0000DEAD#32)).map (fun t => t.reg 5) =
      some 0x00000000#32 := by decide

/-- V92: `xori x5, x1, -1`, rule R224. -/
theorem test_xori_v92 :
    (ran 0#32 0xFFF0C293#32 ((State.reset.setReg 1 0x0F0F0F0F#32).setReg 5 0x0000DEAD#32)).map (fun t => t.reg 5) =
      some 0xF0F0F0F0#32 := by decide

/-- V94: `ori x5, x1, -2048`, rule R225. -/
theorem test_ori_v94 :
    (ran 0#32 0x8000E293#32 ((State.reset.setReg 1 0x00000000#32).setReg 5 0x0000DEAD#32)).map (fun t => t.reg 5) =
      some 0xFFFFF800#32 := by decide

/-- V96: `andi x5, x1, -16`, rule R226. -/
theorem test_andi_v96 :
    (ran 0#32 0xFF00F293#32 ((State.reset.setReg 1 0x12345678#32).setReg 5 0x0000DEAD#32)).map (fun t => t.reg 5) =
      some 0x12345670#32 := by decide

/-- V98: `slli x5, x1, 31`, rule R227. -/
theorem test_slli_v98 :
    (ran 0#32 0x01F09293#32 ((State.reset.setReg 1 0x00000001#32).setReg 5 0x0000DEAD#32)).map (fun t => t.reg 5) =
      some 0x80000000#32 := by decide

/-- V110: `slli, ir[31:25] = 1111111 (non-canonical)`, rule R227, decision D19; a model may refuse. -/
theorem test_slli_v110 :
    (ran 0#32 0xFE309293#32 (State.reset.setReg 1 0x00000001#32)).map (fun t => t.reg 5) =
      some 0x00000008#32 := by decide

/-- V100: `srli x5, x1, 31`, rule R228. -/
theorem test_srli_v100 :
    (ran 0#32 0x01F0D293#32 ((State.reset.setReg 1 0x80000000#32).setReg 5 0x0000DEAD#32)).map (fun t => t.reg 5) =
      some 0x00000001#32 := by decide

/-- V103: `srai x5, x1, 31`, rule R229. -/
theorem test_srai_v103 :
    (ran 0#32 0x41F0D293#32 ((State.reset.setReg 1 0x80000000#32).setReg 5 0x0000DEAD#32)).map (fun t => t.reg 5) =
      some 0xFFFFFFFF#32 := by decide

/-- V111: `srai, ir[31:25] = 0100001 (non-canonical)`, rule R229, decision D19; only bit 30 examined. -/
theorem test_srai_v111 :
    (ran 0#32 0x4240D293#32 (State.reset.setReg 1 0x80000000#32)).map (fun t => t.reg 5) =
      some 0xF8000000#32 := by decide

/-- V112: `add x5, x1, x2`, rule R231. -/
theorem test_add_v112 :
    (ran 0#32 0x002082B3#32
        (((State.reset.setReg 1 0xFFFFFFFF#32).setReg 2 0x00000001#32).setReg 5 0x0000DEAD#32)).map
      (fun t => t.reg 5) =
      some 0x00000000#32 := by decide

/-- V132: `add x5, x5, x5`, rule R148; all three the same register. -/
theorem test_add_v132 :
    (ran 0#32 0x005282B3#32 (State.reset.setReg 5 0x40000001#32)).map (fun t => t.reg 5) =
      some 0x80000002#32 := by decide

/-- V114: `sub x5, x1, x2`, rule R232. -/
theorem test_sub_v114 :
    (ran 0#32 0x402082B3#32
        (((State.reset.setReg 1 0x00000000#32).setReg 2 0x00000001#32).setReg 5 0x0000DEAD#32)).map
      (fun t => t.reg 5) =
      some 0xFFFFFFFF#32 := by decide

/-- V116: `sub x5, x1, x2`, rule R232. -/
theorem test_sub_v116 :
    (ran 0#32 0x402082B3#32
        (((State.reset.setReg 1 0x00000000#32).setReg 2 0x80000000#32).setReg 5 0x0000DEAD#32)).map
      (fun t => t.reg 5) =
      some 0x80000000#32 := by decide

/-- V117: `sll x5, x1, x2`, rule R233. -/
theorem test_sll_v117 :
    (ran 0#32 0x002092B3#32
        (((State.reset.setReg 1 0x00000001#32).setReg 2 0x00000023#32).setReg 5 0x0000DEAD#32)).map
      (fun t => t.reg 5) =
      some 0x00000008#32 := by decide

/-- V120: `slt x5, x1, x2`, rule R234. -/
theorem test_slt_v120 :
    (ran 0#32 0x0020A2B3#32
        (((State.reset.setReg 1 0x80000000#32).setReg 2 0x7FFFFFFF#32).setReg 5 0x0000DEAD#32)).map
      (fun t => t.reg 5) =
      some 0x00000001#32 := by decide

/-- V122: `sltu x5, x1, x2`, rule R235. -/
theorem test_sltu_v122 :
    (ran 0#32 0x0020B2B3#32
        (((State.reset.setReg 1 0x80000000#32).setReg 2 0x7FFFFFFF#32).setReg 5 0x0000DEAD#32)).map
      (fun t => t.reg 5) =
      some 0x00000000#32 := by decide

/-- V124: `xor x5, x1, x2`, rule R236. -/
theorem test_xor_v124 :
    (ran 0#32 0x0020C2B3#32
        (((State.reset.setReg 1 0xFF00FF00#32).setReg 2 0x0FF00FF0#32).setReg 5 0x0000DEAD#32)).map
      (fun t => t.reg 5) =
      some 0xF0F0F0F0#32 := by decide

/-- V126: `srl x5, x1, x2`, rule R237. -/
theorem test_srl_v126 :
    (ran 0#32 0x0020D2B3#32
        (((State.reset.setReg 1 0x80000000#32).setReg 2 0x00000024#32).setReg 5 0x0000DEAD#32)).map
      (fun t => t.reg 5) =
      some 0x08000000#32 := by decide

/-- V128: `sra x5, x1, x2`, rule R238. -/
theorem test_sra_v128 :
    (ran 0#32 0x4020D2B3#32
        (((State.reset.setReg 1 0x80000000#32).setReg 2 0x0000003F#32).setReg 5 0x0000DEAD#32)).map
      (fun t => t.reg 5) =
      some 0xFFFFFFFF#32 := by decide

/-- V130: `or x5, x1, x2`, rule R239. -/
theorem test_or_v130 :
    (ran 0#32 0x0020E2B3#32
        (((State.reset.setReg 1 0xFF00FF00#32).setReg 2 0x0FF00FF0#32).setReg 5 0x0000DEAD#32)).map
      (fun t => t.reg 5) =
      some 0xFFF0FFF0#32 := by decide

/-- V131: `and x5, x1, x2`, rule R240. -/
theorem test_and_v131 :
    (ran 0#32 0x0020F2B3#32
        (((State.reset.setReg 1 0xFF00FF00#32).setReg 2 0x0FF00FF0#32).setReg 5 0x0000DEAD#32)).map
      (fun t => t.reg 5) =
      some 0x0F000F00#32 := by decide

/-- V138: `mul x5, x1, x2`, rule R261. -/
theorem test_mul_v138 :
    (ran 0#32 0x022082B3#32
        (((State.reset.setReg 1 0x12345678#32).setReg 2 0x9ABCDEF0#32).setReg 5 0x0000DEAD#32)).map
      (fun t => t.reg 5) =
      some 0x242D2080#32 := by decide

/-- V142: `mulh x5, x1, x2`, rule R262. -/
theorem test_mulh_v142 :
    (ran 0#32 0x022092B3#32
        (((State.reset.setReg 1 0x12345678#32).setReg 2 0x9ABCDEF0#32).setReg 5 0x0000DEAD#32)).map
      (fun t => t.reg 5) =
      some 0xF8CC93D6#32 := by decide

/-- V141: `mulh x5, x1, x2`, rule R262. -/
theorem test_mulh_v141 :
    (ran 0#32 0x022092B3#32
        (((State.reset.setReg 1 0x80000000#32).setReg 2 0x00000001#32).setReg 5 0x0000DEAD#32)).map
      (fun t => t.reg 5) =
      some 0xFFFFFFFF#32 := by decide

/-- V144: `mulhsu x5, x1, x2`, rule R263. -/
theorem test_mulhsu_v144 :
    (ran 0#32 0x0220A2B3#32
        (((State.reset.setReg 1 0x80000000#32).setReg 2 0xFFFFFFFF#32).setReg 5 0x0000DEAD#32)).map
      (fun t => t.reg 5) =
      some 0x80000000#32 := by decide

/-- V146: `mulhsu x5, x1, x2`, rule R263. -/
theorem test_mulhsu_v146 :
    (ran 0#32 0x0220A2B3#32
        (((State.reset.setReg 1 0x12345678#32).setReg 2 0x9ABCDEF0#32).setReg 5 0x0000DEAD#32)).map
      (fun t => t.reg 5) =
      some 0x0B00EA4E#32 := by decide

/-- V147: `mulhu x5, x1, x2`, rule R264. -/
theorem test_mulhu_v147 :
    (ran 0#32 0x0220B2B3#32
        (((State.reset.setReg 1 0xFFFFFFFF#32).setReg 2 0xFFFFFFFF#32).setReg 5 0x0000DEAD#32)).map
      (fun t => t.reg 5) =
      some 0xFFFFFFFE#32 := by decide

/-- V150: `div x5, x1, x2`, rule R265. -/
theorem test_div_v150 :
    (ran 0#32 0x0220C2B3#32
        (((State.reset.setReg 1 0xFFFFFFF9#32).setReg 2 0x00000002#32).setReg 5 0x0000DEAD#32)).map
      (fun t => t.reg 5) =
      some 0xFFFFFFFD#32 := by decide

/-- V155: `div x5, x1, x2`, rule R265. -/
theorem test_div_v155 :
    (ran 0#32 0x0220C2B3#32
        (((State.reset.setReg 1 0x80000000#32).setReg 2 0xFFFFFFFF#32).setReg 5 0x0000DEAD#32)).map
      (fun t => t.reg 5) =
      some 0x80000000#32 := by decide

/-- V159: `divu x5, x1, x2`, rule R266. -/
theorem test_divu_v159 :
    (ran 0#32 0x0220D2B3#32
        (((State.reset.setReg 1 0x00000005#32).setReg 2 0x00000000#32).setReg 5 0x0000DEAD#32)).map
      (fun t => t.reg 5) =
      some 0xFFFFFFFF#32 := by decide

/-- V158: `divu x5, x1, x2`, rule R266. -/
theorem test_divu_v158 :
    (ran 0#32 0x0220D2B3#32
        (((State.reset.setReg 1 0xFFFFFFF9#32).setReg 2 0x00000002#32).setReg 5 0x0000DEAD#32)).map
      (fun t => t.reg 5) =
      some 0x7FFFFFFC#32 := by decide

/-- V164: `rem x5, x1, x2`, rule R267. -/
theorem test_rem_v164 :
    (ran 0#32 0x0220E2B3#32
        (((State.reset.setReg 1 0xFFFFFFF9#32).setReg 2 0xFFFFFFFE#32).setReg 5 0x0000DEAD#32)).map
      (fun t => t.reg 5) =
      some 0xFFFFFFFF#32 := by decide

/-- V167: `rem x5, x1, x2`, rule R267. -/
theorem test_rem_v167 :
    (ran 0#32 0x0220E2B3#32
        (((State.reset.setReg 1 0x80000000#32).setReg 2 0xFFFFFFFF#32).setReg 5 0x0000DEAD#32)).map
      (fun t => t.reg 5) =
      some 0x00000000#32 := by decide

/-- V171: `remu x5, x1, x2`, rule R268. -/
theorem test_remu_v171 :
    (ran 0#32 0x0220F2B3#32
        (((State.reset.setReg 1 0x00000007#32).setReg 2 0xFFFFFFFE#32).setReg 5 0x0000DEAD#32)).map
      (fun t => t.reg 5) =
      some 0x00000007#32 := by decide

/-- V169: `remu x5, x1, x2`, rule R268. -/
theorem test_remu_v169 :
    (ran 0#32 0x0220F2B3#32
        (((State.reset.setReg 1 0x00000005#32).setReg 2 0x00000000#32).setReg 5 0x0000DEAD#32)).map
      (fun t => t.reg 5) =
      some 0x00000005#32 := by decide

/-- V177: `fence, rd field = 5`, rule R280; rd is not written. -/
theorem test_fence_v177 :
    (ran 0#32 0x0FF0028F#32 (State.reset.setReg 5 0x00000007#32)).map (fun t => t.pc) =
      some 0x80000004#32 := by decide

/-- V176: `fence.i`, rule R281. -/
theorem test_fenceI_v176 : (ran 0#32 0x0000100F#32 State.reset).map (fun t => t.pc) = some 0x80000004#32 := by decide

/-- V178: `opcode 0001111, funct3 = 010`, rule R282, decision D19; a model may refuse. -/
theorem test_fenceOther_v178 :
    (ran 0#32 0x0000200F#32 State.reset).map (fun t => t.pc) =
      some 0x80000004#32 := by decide

/-- V180: `csrrw x5, mscratch, x5`, rule R287; swap. -/
theorem test_csrrw_v180 :
    (ran 0#32 0x340292F3#32
        (({ State.reset with mscratch := 0x11112222#32 }).setReg 5 0xAAAA5555#32)).map
      (fun t => (t.reg 5, t.mscratch)) =
      some (0x11112222#32, 0xAAAA5555#32) := by decide

/-- V192: `csrrw x5, misa, x6`, rule R41; write ignored. -/
theorem test_csrrw_v192 :
    (ran 0#32 0x301312F3#32 (State.reset.setReg 6 0x00000000#32)).map (fun t => t.reg 5) =
      some 0x40401101#32 := by decide

/-- V189: `csrrs x5, cycle, x0`, rule R37; carry into cycleh; reads 0. -/
theorem test_csrrs_v189 :
    (ran 0#32 0xC00022F3#32
        (({ State.reset with cyclel := 0xFFFFFFFF#32 }).setReg 5 0x0000DEAD#32)).map
      (fun t => (t.reg 5, t.cyclel, t.cycleh)) =
      some (0x00000000#32, 0x00000000#32, 0x00000001#32) := by decide

/-- V196: `csrrs x5, mip, x0`, rule R30; MTIP computed in this step. -/
theorem test_csrrs_v196 :
    (ran 0#32 0x344022F3#32
        { State.reset with timermatchl := 0x0000000A#32, timerl := 0x0000000B#32 }).map
      (fun t => (t.reg 5, t.mip)) =
      some (0x00000080#32, 0x00000080#32) := by decide

/-- V183: `csrrc x5, mie, x6`, rule R289. -/
theorem test_csrrc_v183 :
    (ran 0#32 0x304332F3#32
        (({ State.reset with mie := 0x00000888#32 }).setReg 6 0x00000080#32)).map
      (fun t => (t.reg 5, t.mie)) =
      some (0x00000888#32, 0x00000808#32) := by decide

/-- V184: `csrrwi x5, mscratch, 31`, rule R290. -/
theorem test_csrrwi_v184 :
    (ran 0#32 0x340FD2F3#32 { State.reset with mscratch := 0xFFFFFFFF#32 }).map (fun t => (t.reg 5, t.mscratch)) =
      some (0xFFFFFFFF#32, 0x0000001F#32) := by decide

/-- V185: `csrrsi x0, mstatus, 8`, rule R291. -/
theorem test_csrrsi_v185 :
    (ran 0#32 0x30046073#32 State.reset).map (fun t => t.mstatus) =
      some 0x00000008#32 := by decide

/-- V186: `csrrci x5, mstatus, 8`, rule R292. -/
theorem test_csrrci_v186 :
    (ran 0#32 0x300472F3#32 { State.reset with mstatus := 0x00001888#32 }).map (fun t => (t.reg 5, t.mstatus)) =
      some (0x00001888#32, 0x00001880#32) := by decide

/-- V200: `ecall`, rule R294; from user mode. -/
theorem test_ecall_v200 :
    (ran 0#32 0x00000073#32
        { State.reset with pc := 0x80000040#32, priv := 0#2, mstatus := 0x00000008#32, mtvec := 0x80000100#32 }).map
      (fun t => (t.pc, t.mstatus, t.mcause, t.mtval)) =
      some (0x80000100#32, 0x00000080#32, 0x00000008#32, 0x80000040#32) := by decide

/-- V202: `ecall`, rules R294, R350; PRIV = 1: cause 11; whole mstatus rewritten. -/
theorem test_ecall_v202 :
    (ran 0#32 0x00000073#32
        { State.reset with pc := 0x80000040#32, priv := 1#2, mstatus := 0xFFFFFFFF#32, mtvec := 0x80000100#32 }).map
      (fun t => (t.pc, t.mstatus, t.mcause, t.mtval)) =
      some (0x80000100#32, 0x00000880#32, 0x0000000B#32, 0x80000040#32) := by decide

/-- V204: `ebreak`, rule R295. -/
theorem test_ebreak_v204 :
    (ran 0#32 0x00100073#32
        { State.reset with pc := 0x80000044#32, mstatus := 0x00000008#32, mtvec := 0x80000100#32 }).map
      (fun t => (t.pc, t.mstatus, t.mcause, t.mtval)) =
      some (0x80000100#32, 0x00001880#32, 0x00000003#32, 0x80000044#32) := by decide

/-- V207: `wfi`, rule R296; no privilege check; only bit 3 of mstatus changes. -/
theorem test_wfi_v207 :
    (ran 0#32 0x10500073#32
        { State.reset with mstatus := 0x00001880#32, priv := 0#2 }).map
      (fun t => (t.outcome, t.mstatus, t.sleep)) =
      some (.sleeping, 0x00001888#32, true) := by decide

/-- V206: `wfi`, rule R296; `CYCLE_ON_EARLY_EXIT = false`. -/
theorem test_wfi_v206 :
    (ran 0#32 0x10500073#32
        { State.reset with params := { Config.Params.customary with cycleOnEarlyExit := false }, pc := 0x80000020#32 }).map
      (fun t => (t.outcome, t.pc, t.mstatus, t.cyclel)) =
      some (.sleeping, 0x80000024#32, 0x00000008#32, 0x00000000#32) := by decide

/-- V208: `mret`, rule R297; return to user mode. -/
theorem test_mret_v208 :
    (ran 0#32 0x30200073#32
        { State.reset with mstatus := 0x00000080#32, mepc := 0x80000044#32 }).map
      (fun t => (t.pc, t.mstatus, t.priv)) =
      some (0x80000044#32, 0x00001888#32, 0#2) := by decide

/-- V212: `mret`, rule R297; executed in user mode; other mstatus bits cleared; mepc verbatim. -/
theorem test_mret_v212 :
    (ran 0#32 0x30200073#32
        { State.reset with mstatus := 0xFFFFFFFF#32, mepc := 0x80000046#32, priv := 0#2 }).map
      (fun t => (t.pc, t.mstatus, t.priv)) =
      some (0x80000046#32, 0x00000088#32, 3#2) := by decide

/-- V223: `lr.w x5, (x6)`, rule R310; misaligned, performed. -/
theorem test_lrW_v223 :
    (ran 0#32 0x100322AF#32
        ((((((State.reset.setReg 6 0x80000101#32).write8 0x80000100#32 0x11#8).write8 0x80000101#32 0x22#8).write8 0x80000102#32
          0x33#8).write8 0x80000103#32 0x44#8).write8 0x80000104#32 0x55#8)).map
      (fun t => (t.reg 5, t.res)) =
      some (0x55443322#32, 0x101#29) := by decide

/-- V224: `lr.w x5, (x6)`, rule R310; out of range: cause 7 although LR only reads; RES kept. -/
theorem test_lrW_v224 :
    (ran 0#32 0x100322AF#32
        (({ State.reset with res := 0x40#29, mtvec := 0x80000200#32 }).setReg 6 0x80000FFD#32)).map
      (fun t => (t.pc, t.mstatus, t.mcause, t.mtval)) =
      some (0x80000200#32, 0x00001800#32, 0x00000007#32, 0x80000FFD#32) := by decide

/-- V217: `sc.w x7, x8, (x6)`, rule R312; success. -/
theorem test_scW_v217 :
    (ran 0#32 0x188323AF#32
        (((({ word2A with res := 0x100#29 }).setReg 6 0x80000100#32).setReg 8 0x0000002B#32).setReg 7 0x00000009#32)).map
      (fun t => (t.reg 7, t.read8 0x80000100#32)) =
      some (0x00000000#32, 0x2B#8) := by decide

/-- V218: `sc.w x7, x8, (x6)`, rule R312; other word: fails, no write. -/
theorem test_scW_v218 :
    (ran 0#32 0x188323AF#32
        (((({ word2A with res := 0x100#29 }).setReg 6 0x80000104#32).setReg 8 0x0000002B#32).setReg 7 0x00000009#32)).map
      (fun t => (t.reg 7, t.read8 0x80000104#32)) =
      some (0x00000001#32, 0x00#8) := by decide

/-- V226: `amoswap.w x5, x7, (x6)`, rule R317. -/
theorem test_amoswapW_v226 :
    (ran 0#32 0x087322AF#32
        (((State.reset.setReg 6 0x80000100#32).setReg 7 0x22222222#32).write32 0x80000100#32 0x11111111#32)).map
      (fun t => (t.reg 5, t.read32 0x80000100#32)) =
      some (0x11111111#32, 0x22222222#32) := by decide

/-- V241: `amoswap.w x5, x7, (x6)`, rule R313; no shutdown through an atomic: cause 7. -/
theorem test_amoswapW_v241 :
    (ran 0#32 0x087322AF#32
        ((({ State.reset with mtvec := 0x80000200#32 }).setReg 6 0x11100000#32).setReg 7 0x00005555#32)).map
      (fun t => (t.pc, t.mstatus, t.mcause, t.mtval)) =
      some (0x80000200#32, 0x00001800#32, 0x00000007#32, 0x11100000#32) := by decide

/-- V239: `amoadd.w x7, x7, (x6)`, rule R148; rd = rs2: old x7 added. -/
theorem test_amoaddW_v239 :
    (ran 0#32 0x007323AF#32
        (((State.reset.setReg 6 0x80000100#32).setReg 7 0x00000005#32).write32 0x80000100#32 0x00000064#32)).map
      (fun t => (t.reg 7, t.read8 0x80000100#32)) =
      some (0x00000064#32, 0x69#8) := by decide

/-- V228: `amoxor.w x5, x7, (x6)`, rule R319. -/
theorem test_amoxorW_v228 :
    (ran 0#32 0x207322AF#32
        (((State.reset.setReg 6 0x80000100#32).setReg 7 0xFFFF0000#32).write32 0x80000100#32 0x0F0F0F0F#32)).map
      (fun t => (t.reg 5, t.read16 0x80000102#32)) =
      some (0x0F0F0F0F#32, 0xF0F0#16) := by decide

/-- V229: `amoand.w x5, x7, (x6)`, rule R320. -/
theorem test_amoandW_v229 :
    (ran 0#32 0x607322AF#32
        (((State.reset.setReg 6 0x80000100#32).setReg 7 0xFFFF0000#32).write32 0x80000100#32 0x0F0F0F0F#32)).map
      (fun t => (t.reg 5, t.read16 0x80000100#32)) =
      some (0x0F0F0F0F#32, 0x0000#16) := by decide

/-- V230: `amoor.w x5, x7, (x6)`, rule R321. -/
theorem test_amoorW_v230 :
    (ran 0#32 0x407322AF#32
        (((State.reset.setReg 6 0x80000100#32).setReg 7 0xFFFF0000#32).write32 0x80000100#32 0x0F0F0F0F#32)).map
      (fun t => (t.reg 5, t.read16 0x80000102#32)) =
      some (0x0F0F0F0F#32, 0xFFFF#16) := by decide

/-- V231: `amomin.w x5, x7, (x6)`, rule R322. -/
theorem test_amominW_v231 :
    (ran 0#32 0x807322AF#32
        (((State.reset.setReg 6 0x80000100#32).setReg 7 0xFFFFFFFF#32).write32 0x80000100#32 0x00000001#32)).map
      (fun t => (t.reg 5, t.read32 0x80000100#32)) =
      some (0x00000001#32, 0xFFFFFFFF#32) := by decide

/-- V236: `amomax.w x5, x7, (x6)`, rule R323. -/
theorem test_amomaxW_v236 :
    (ran 0#32 0xA07322AF#32
        (((State.reset.setReg 6 0x80000100#32).setReg 7 0x7FFFFFFF#32).write32 0x80000100#32 0x80000000#32)).map
      (fun t => (t.reg 5, t.read32 0x80000100#32)) =
      some (0x80000000#32, 0x7FFFFFFF#32) := by decide

/-- V237: `amominu.w x5, x7, (x6)`, rule R324. -/
theorem test_amominuW_v237 :
    (ran 0#32 0xC07322AF#32
        (((State.reset.setReg 6 0x80000100#32).setReg 7 0x7FFFFFFF#32).write32 0x80000100#32 0x80000000#32)).map
      (fun t => (t.reg 5, t.read32 0x80000100#32)) =
      some (0x80000000#32, 0x7FFFFFFF#32) := by decide

/-- V234: `amomaxu.w x5, x7, (x6)`, rule R325. -/
theorem test_amomaxuW_v234 :
    (ran 0#32 0xE07322AF#32
        (((State.reset.setReg 6 0x80000100#32).setReg 7 0xFFFFFFFF#32).write32 0x80000100#32 0x00000001#32)).map
      (fun t => (t.reg 5, t.read32 0x80000100#32)) =
      some (0x00000001#32, 0xFFFFFFFF#32) := by decide

/-- V244: `atomic, funct5 = 00101`, rule R326; in range: illegal, no write. -/
theorem test_amoRsv_v244 :
    (ran 0#32 0x287322AF#32
        (((({ State.reset with mtvec := 0x80000200#32 }).setReg 6 0x80000100#32).setReg 7 0x00000001#32).write32 0x80000100#32 0x00000007#32)).map
      (fun t => (t.pc, t.mstatus, t.mcause, t.mtval)) =
      some (0x80000200#32, 0x00001800#32, 0x00000002#32, 0x80000000#32) := by decide

/-- V245: `atomic, funct5 = 00101`, rule R326; out of range: cause 7 wins. -/
theorem test_amoRsv_v245 :
    (ran 0#32 0x287322AF#32
        ((({ State.reset with mtvec := 0x80000200#32 }).setReg 6 0x00000000#32).setReg 7 0x00000001#32)).map
      (fun t => (t.pc, t.mstatus, t.mcause)) =
      some (0x80000200#32, 0x00001800#32, 0x00000007#32) := by decide

/-- V61: `load, funct3 = 011`, rule R196; out of range: access fault wins. -/
theorem test_loadRsv_v61 :
    (ran 0#32 0x00013283#32
        (({ State.reset with mtvec := 0x80000100#32 }).setReg 2 0x00000000#32)).map
      (fun t => (t.pc, t.mstatus, t.mcause)) =
      some (0x80000100#32, 0x00001800#32, 0x00000005#32) := by decide

/-- V62: `load, funct3 = 110 (`lwu`-shaped)`, rule R196; timer address: loads timerh, no exception. -/
theorem test_loadRsv_v62 :
    (ran 0#32 0x00016283#32
        (({ State.reset with timerl := 0x89ABCDEF#32, timerh := 0x01234567#32 }).setReg 2 0x1100BFFC#32)).map
      (fun t => t.reg 5) =
      some 0x01234567#32 := by decide

/-- V80: `store, funct3 = 011`, rule R204; in range: illegal, nothing written. -/
theorem test_storeRsv_v80 :
    (ran 0#32 0x00513023#32
        ((({ State.reset with mtvec := 0x80000100#32 }).setReg 2 0x80000010#32).setReg 5 0xFFFFFFFF#32)).map
      (fun t => (t.pc, t.mstatus, t.mcause, t.mtval)) =
      some (0x80000100#32, 0x00001800#32, 0x00000002#32, 0x80000000#32) := by decide

/-- V81: `store, funct3 = 111`, rule R204; shutdown address: shuts down, no exception. -/
theorem test_storeRsv_v81 :
    (ran 0#32 0x00737023#32
        ((State.reset.setReg 6 0x11100000#32).setReg 7 0x00000009#32)).map
      (fun t => (t.outcome, t.pc)) =
      some (.shutdown 0x00000009#32, 0x80000004#32) := by decide

/-- V251: `all-zero word`, rule R147. -/
theorem test_illegal_v251 :
    (ran 0#32 0x00000000#32
        { State.reset with pc := 0x80000010#32, mtvec := 0x80000100#32, mstatus := 0x00000008#32 }).map
      (fun t => (t.pc, t.mstatus, t.mcause, t.mtval)) =
      some (0x80000100#32, 0x00001880#32, 0x00000002#32, 0x80000010#32) := by decide

/-- V215: `SYSTEM, funct3 = 100`, rule R298; illegal. -/
theorem test_illegal_v215 :
    (ran 0#32 0x00004073#32
        { State.reset with mtvec := 0x80000100#32 }).map
      (fun t => (t.pc, t.mstatus, t.mcause, t.mtval)) =
      some (0x80000100#32, 0x00001800#32, 0x00000002#32, 0x80000000#32) := by decide

/-! ## Fetch, timer, sleep and interrupt -/

/-- V246: `(fetch at pc outside the buffer)`, rule R145; cause 1; first address past the end. -/
theorem test_fetch_v246 :
    (stepped 0#32
        { State.reset with pc := 0x80001000#32, mtvec := 0x80000100#32 }).map
      (fun t => (t.pc, t.mstatus, t.mcause, t.mtval)) =
      some (0x80000100#32, 0x00001800#32, 0x00000001#32, 0x80001000#32) := by decide

/-- V248: `(fetch at misaligned pc)`, rule R145; cause 0 (mcause written with 0, its value already). -/
theorem test_fetch_v248 :
    (stepped 0#32
        { State.reset with pc := 0x80000042#32, mtvec := 0x80000100#32 }).map
      (fun t => (t.pc, t.mstatus, t.mtval)) =
      some (0x80000100#32, 0x00001800#32, 0x80000042#32) := by decide

/-- V249: `(fetch at misaligned pc outside the buffer)`, rule R145; range test first: cause 1. -/
theorem test_fetch_v249 :
    (stepped 0#32
        { State.reset with pc := 0x80001002#32, mtvec := 0x80000100#32 }).map
      (fun t => (t.pc, t.mstatus, t.mcause, t.mtval)) =
      some (0x80000100#32, 0x00001800#32, 0x00000001#32, 0x80001002#32) := by decide

/-- V250: `(last word of the buffer)`, rule R68; fetch range is [0, MEM_LEN), so the last word can be executed. -/
theorem test_fetch_v250 :
    (ran 0#32 0x00000013#32 { State.reset with pc := 0x80000FFC#32 }).map (fun t => t.pc) =
      some 0x80001000#32 := by decide

/-- V257: `Step(0xFFFFFFFF)`, rule R341; carry into timerh. -/
theorem test_timer_v257 :
    (ran 4294967295#32 0x00128293#32
        { State.reset with timerl := 0x00000002#32 }).map
      (fun t => (t.reg 5, t.cyclel, t.timerl, t.timerh)) =
      some (0x00000001#32, 0x00000001#32, 0x00000001#32, 0x00000001#32) := by decide

/-- V258: `Step(5)`, rule R342; TIMER = MATCH: not pending. -/
theorem test_timer_v258 :
    (ran 5#32 0x00128293#32
        { State.reset with timermatchl := 0x00000064#32, timerl := 0x0000005F#32 }).map
      (fun t => (t.reg 5, t.cyclel, t.timerl)) =
      some (0x00000001#32, 0x00000001#32, 0x00000064#32) := by decide

/-- V259: `Step(6)`, rule R342; pending, but mie = 0: instruction runs. -/
theorem test_timer_v259 :
    (ran 6#32 0x00128293#32
        { State.reset with timermatchl := 0x00000064#32, timerl := 0x0000005F#32 }).map
      (fun t => (t.reg 5, t.mip, t.cyclel, t.timerl)) =
      some (0x00000001#32, 0x00000080#32, 0x00000001#32, 0x00000065#32) := by decide

/-- V265: `Step(0)`, rules R30, R342; stale mip[7] is cleared before the gate; other mip bits kept. -/
theorem test_timer_v265 :
    (ran 0#32 0x00128293#32
        { State.reset with mip := 0xFFFFFFFF#32, mie := 0x00000080#32, mstatus := 0x00000008#32 }).map
      (fun t => (t.reg 5, t.mip, t.cyclel)) =
      some (0x00000001#32, 0xFFFFFF7F#32, 0x00000001#32) := by decide

/-- V261: `Step(6)`, rules R345, R351; interrupt taken: no instruction, cyclel unchanged. -/
theorem test_interrupt_v261 :
    (ran 6#32 0x00128293#32 due).map (fun t => (t.pc, t.mstatus, t.mepc, t.mcause)) =
      some (0x80000100#32, 0x00001880#32, 0x80000024#32, 0x80000007#32) := by decide

/-- V262: `Step(6)`, rule R351; from user mode. -/
theorem test_interrupt_v262 :
    (ran 6#32 0x00128293#32
        { due with mtvec := 0x80000100#32, priv := 0#2 }).map
      (fun t => (t.pc, t.mstatus, t.mepc, t.mcause)) =
      some (0x80000100#32, 0x00000080#32, 0x80000024#32, 0x80000007#32) := by decide

/-- V266: `Step(10)`, rule R343; asleep: only the timer moves. -/
theorem test_sleep_v266 :
    (ran 10#32 0x00128293#32
        { State.reset with sleep := true, timermatchl := 0x00000064#32, timerl := 0x00000032#32 }).map
      (fun t => (t.outcome, t.timerl)) =
      some (.sleeping, 0x0000003C#32) := by decide

/-- V268: `Step(60)`, rule R343; wakes without enable: the instruction runs in the same step. -/
theorem test_sleep_v268 :
    (ran 60#32 0x00128293#32
        { State.reset with sleep := true, timermatchl := 0x00000064#32, timerl := 0x00000032#32 }).map
      (fun t => (t.reg 5, t.mip, t.cyclel, t.timerl, t.sleep)) =
      some (0x00000001#32, 0x00000080#32, 0x00000001#32, 0x0000006E#32, false) := by decide

/-- V269: `Step(60)`, rules R343, R347; wake and interrupt entry in one step. -/
theorem test_sleep_v269 :
    (ran 60#32 0x00128293#32
        { due with sleep := true, timerl := 0x00000032#32 }).map
      (fun t => (t.pc, t.mstatus, t.mepc, t.mcause, t.sleep)) =
      some (0x80000100#32, 0x00001880#32, 0x80000024#32, 0x80000007#32, false) := by decide

/-! ## Witnesses: the hypotheses of every statement can be met -/

/-- Register 2 holds an address, register 5 a value. -/
def pointing (a : Word) : State := (State.reset.setReg 2 a).setReg 5 0xCAFEF00D#32

/-- DecodeOfEncodeIsIdentity: well-formed terms at the ends of their operands, reserved rows and `ILLEGAL` among them. -/
theorem witness_decode_of_encode :
    ∀ i ∈ [Instr.jal 31 0x100000, .beq 31 0 0x1000, .fenceOther 7, .loadRsv 31 31 0xFFF 3, .storeRsv 0 31 0x800 7,
      .amoRsv 31 0b11111, .illegal 0xFFFFFFFF], i.wf = true := by
  simp only [List.forall_mem_cons, List.not_mem_nil, false_implies, implies_true, and_true]
  decide

/-- DecodeOperandFields and the forms that say which words a row has: every pattern of a row meets its own mask. -/
theorem witness_patterns :
    ∀ p ∈ [(0x707F#32, 0x0003#32), (0x707F#32, 0x1003#32), (0x707F#32, 0x2003#32), (0x707F#32, 0x4003#32),
      (0x707F#32, 0x5003#32), (0x707F#32, 0x0023#32), (0x707F#32, 0x1023#32), (0x707F#32, 0x2023#32), (0x707F#32, 0x000F#32),
      (0x707F#32, 0x100F#32), (0x707F#32, 0x1073#32), (0x707F#32, 0x2073#32), (0x707F#32, 0x3073#32), (0x707F#32, 0x5073#32),
      (0x707F#32, 0x6073#32), (0x707F#32, 0x7073#32), (0xFFF0707F#32, 0x00000073#32), (0xFFF0707F#32, 0x00100073#32),
      (0xFFF0707F#32, 0x10500073#32), (0xFFF0707F#32, 0x30200073#32), (0xF800007F#32, 0x1000002F#32),
      (0xF800007F#32, 0x1800002F#32), (0xF800007F#32, 0x0800002F#32), (0xF800007F#32, 0x0000002F#32),
      (0xF800007F#32, 0x2000002F#32), (0xF800007F#32, 0x6000002F#32), (0xF800007F#32, 0x4000002F#32),
      (0xF800007F#32, 0x8000002F#32), (0xF800007F#32, 0xA000002F#32), (0xF800007F#32, 0xC000002F#32),
      (0xF800007F#32, 0xE000002F#32)], p.2 &&& p.1 = p.2 := by
  simp only [List.forall_mem_cons, List.not_mem_nil, false_implies, implies_true, and_true]
  decide

/-- The same for the arithmetic, branch, jump and upper-immediate rows. -/
theorem witness_patterns_arithmetic :
    ∀ p ∈ [(0x7F#32, 0x37#32), (0x7F#32, 0x17#32), (0x7F#32, 0x6F#32), (0x7F#32, 0x67#32), (0x707F#32, 0x0063#32),
      (0x707F#32, 0x1063#32), (0x707F#32, 0x4063#32), (0x707F#32, 0x5063#32), (0x707F#32, 0x6063#32), (0x707F#32, 0x7063#32),
      (0x707F#32, 0x0013#32), (0x707F#32, 0x2013#32), (0x707F#32, 0x3013#32), (0x707F#32, 0x4013#32), (0x707F#32, 0x6013#32),
      (0x707F#32, 0x7013#32), (0x707F#32, 0x1013#32), (0x4000707F#32, 0x5013#32), (0x4000707F#32, 0x40005013#32),
      (0x4200707F#32, 0x0033#32), (0x4200707F#32, 0x40000033#32), (0x0200707F#32, 0x1033#32), (0x0200707F#32, 0x2033#32),
      (0x0200707F#32, 0x3033#32), (0x0200707F#32, 0x4033#32), (0x4200707F#32, 0x5033#32), (0x4200707F#32, 0x40005033#32),
      (0x0200707F#32, 0x6033#32), (0x0200707F#32, 0x7033#32), (0x0200707F#32, 0x02000033#32), (0x0200707F#32, 0x02001033#32),
      (0x0200707F#32, 0x02002033#32), (0x0200707F#32, 0x02003033#32), (0x0200707F#32, 0x02004033#32),
      (0x0200707F#32, 0x02005033#32), (0x0200707F#32, 0x02006033#32), (0x0200707F#32, 0x02007033#32)],
      p.2 &&& p.1 = p.2 := by
  simp only [List.forall_mem_cons, List.not_mem_nil, false_implies, implies_true, and_true]
  decide

/-- DecodeOperandFields: words of the undefined selectors of loads, stores, fences and atomics. -/
theorem witness_reserved_selectors :
    (opcodeOf 0x00413283#32 = 0x03#7 ∧ funct3Of 0x00413283#32 = 3#3) ∧
      (opcodeOf 0x00517223#32 = 0x23#7 ∧ funct3Of 0x00517223#32 = 7#3) ∧
      (opcodeOf 0x0000200F#32 = 0x0F#7 ∧ funct3Of 0x0000200F#32 = 2#3 ∧ 2#3 ∉ [0#3, 1#3]) ∧
      opcodeOf 0x287322AF#32 = 0x2F#7 ∧ funct5Of 0x287322AF#32 = 5#5 ∧ 5#5 ∉ definedFunct5 := by decide

/-- IllegalWordsTrap: a word for each of its four cases, and one, `sfence.vma`, of U4. -/
theorem witness_illegal_words :
    (opcodeOf 0x00000000#32 = 0x00#7 ∧ decode 0x00000000#32 = .illegal 0x00000000#32) ∧
      (opcodeOf 0x00003063#32 = 0x63#7 ∧ decode 0x00003063#32 = .illegal 0x00003063#32) ∧
      (opcodeOf 0x00004073#32 = 0x73#7 ∧ decode 0x00004073#32 = .illegal 0x00004073#32) ∧
      imm12Of 0x12000073#32 = 0x120#12 ∧ decode 0x12000073#32 = .illegal 0x12000073#32 := by decide

/-- ConditionalBranches: operands for which each comparison holds and for which it does not. -/
theorem witness_branches :
    ((7#32).toNat = (7#32).toNat ∧ (7#32).toNat ≠ (8#32).toNat) ∧
      ((0xFFFFFFFF#32).toInt < (1#32).toInt ∧ ¬(1#32).toInt < (0xFFFFFFFF#32).toInt) ∧
      ((0x7FFFFFFF#32).toInt ≥ (0x80000000#32).toInt ∧ ¬(0x80000000#32).toInt ≥ (0x7FFFFFFF#32).toInt) ∧
      ((1#32).toNat < (0xFFFFFFFF#32).toNat ∧ ¬(0xFFFFFFFF#32).toNat < (1#32).toNat) ∧
      (0#32).toNat ≥ (0#32).toNat ∧ ¬(0#32).toNat ≥ (1#32).toNat := by decide

/-- DivisionLaws: -7 by 2, and the overflow pair of its unsigned clause. -/
theorem witness_division :
    ∀ p ∈ [(0xFFFFFFF9#32, 2#32), (0x80000000#32, 0xFFFFFFFF#32)],
      ∃ s : State, s.reg 1 = p.1 ∧ s.reg 2 = p.2 ∧ s.reg 2 ≠ 0#32 ∧
        (∃ q, exec (.div 5 1 2) s = .next q) ∧ (∃ r, exec (.rem 5 1 2) s = .next r) ∧
        (∃ q', exec (.divu 5 1 2) s = .next q') ∧ ∃ r', exec (.remu 5 1 2) s = .next r' := by
  simp only [List.forall_mem_cons, List.not_mem_nil, false_implies, implies_true, and_true]
  exact ⟨⟨(State.reset.setReg 1 0xFFFFFFF9#32).setReg 2 2#32, rfl, rfl, by decide, ⟨_, rfl⟩, ⟨_, rfl⟩, ⟨_, rfl⟩, _, rfl⟩,
    (State.reset.setReg 1 0x80000000#32).setReg 2 0xFFFFFFFF#32, rfl, rfl, by decide, ⟨_, rfl⟩, ⟨_, rfl⟩, ⟨_, rfl⟩, _, rfl⟩

/-- LoadsInsideBuffer, StoresInsideBuffer, ReservedSelectorsTrapInsideBuffer: the first and the last address of the buffer
at which an access is in range, by a negative displacement too. -/
theorem witness_inside :
    InRam (pointing 0x80000000#32) (displaced ((pointing 0x80000000#32).reg 2) 0#12) ∧
      InRam (pointing 0x80000FFC#32) (displaced ((pointing 0x80000FFC#32).reg 2) 0#12) ∧
      InRam (pointing 0x80001000#32) (displaced ((pointing 0x80001000#32).reg 2) (BitVec.ofInt 12 (-4))) := by
  unfold InRam; decide

/-- LoadsOutsideBuffer: the two timer addresses, and the first address past the range. -/
theorem witness_load_outside :
    (∀ a ∈ [0x1100BFFC#32, 0x1100BFF8#32], a = displaced ((pointing a).reg 2) 0#12 ∧ ¬InRam (pointing a) a) ∧
      0x80000FFD#32 = displaced ((pointing 0x80000FFD#32).reg 2) 0#12 ∧
      ¬InRam (pointing 0x80000FFD#32) 0x80000FFD#32 ∧ 0x80000FFD#32 ≠ 0x1100BFFC#32 ∧ 0x80000FFD#32 ≠ 0x1100BFF8#32 := by
  simp only [List.forall_mem_cons, List.not_mem_nil, false_implies, implies_true, and_true]
  unfold InRam
  decide

/-- StoresOutsideBuffer: the two match addresses, and the last address below the buffer. -/
theorem witness_store_outside :
    (∀ a ∈ [0x11004004#32, 0x11004000#32], a = displaced ((pointing a).reg 2) 0#12 ∧ ¬InRam (pointing a) a) ∧
      0x7FFFFFFF#32 = displaced ((pointing 0x7FFFFFFF#32).reg 2) 0#12 ∧
      ¬InRam (pointing 0x7FFFFFFF#32) 0x7FFFFFFF#32 ∧ 0x7FFFFFFF#32 ≠ 0x11004004#32 ∧ 0x7FFFFFFF#32 ≠ 0x11004000#32 ∧
      0x7FFFFFFF#32 ≠ 0x11100000#32 := by
  simp only [List.forall_mem_cons, List.not_mem_nil, false_implies, implies_true, and_true]
  unfold InRam
  decide

/-- ShutdownStores: the system-control address lies outside the buffer. -/
theorem witness_shutdown :
    displaced ((pointing 0x11100000#32).reg 2) 0#12 = 0x11100000#32 ∧ ¬InRam (pointing 0x11100000#32) 0x11100000#32 := by
  unfold InRam; decide

/-- Registers 2 and 3 hold addresses, register 5 a value. -/
def pointingTwice (a b : Word) : State := (pointing a).setReg 3 b

/-- LoadAfterStore: the last word of the buffer, stored through one base and loaded through another; a byte stored into the
middle of a word, which a load of the word sees at that byte and at no other; and a load beside the store. -/
theorem witness_load_after_store :
    (InRam (pointingTwice 0x80000FFC#32 0x80001000#32) (displaced ((pointingTwice 0x80000FFC#32 0x80001000#32).reg 2) 0#12) ∧
        displaced ((pointingTwice 0x80000FFC#32 0x80001000#32).reg 3) (BitVec.ofInt 12 (-4)) =
          displaced ((pointingTwice 0x80000FFC#32 0x80001000#32).reg 2) 0#12 ∧
        ∃ t, exec (.sw 5 2 0#12) (pointingTwice 0x80000FFC#32 0x80001000#32) = .next t) ∧
      (InRam (pointingTwice 0x80000012#32 0x80000010#32) (displaced 0x80000012#32 0#12) ∧
        InRam (pointingTwice 0x80000012#32 0x80000010#32) (displaced 0x80000010#32 0#12) ∧
        (∃ t, exec (.sb 5 2 0#12) (pointingTwice 0x80000012#32 0x80000010#32) = .next t) ∧
        byteAddr 0x80000010#32 2 = byteAddr 0x80000012#32 0 ∧ byteAddr 0x80000010#32 1 ≠ byteAddr 0x80000012#32 0) ∧
      byteAddr 0x80000000#32 3 ≠ byteAddr 0x80000004#32 0 := by
  refine ⟨⟨?_, ?_, _, rfl⟩, ⟨?_, ?_, ⟨_, rfl⟩, ?_, ?_⟩, ?_⟩ <;> (try unfold InRam) <;> decide

/-- FetchSeesStore: the instruction at the reset pc stores into the next word, at its first byte and at its third. -/
theorem witness_fetch_sees_store :
    (InRam (pointing 0x80000004#32) (displaced ((pointing 0x80000004#32).reg 2) 0#12) ∧
        ∃ t, exec (.sw 5 2 0#12) (pointing 0x80000004#32) = .next t ∧ Fetchable t ∧
          byteAddr t.pc 3 = byteAddr (displaced ((pointing 0x80000004#32).reg 2) 0#12) 3) ∧
      InRam (pointing 0x80000006#32) (displaced ((pointing 0x80000006#32).reg 2) 0#12) ∧
      ∃ t, exec (.sb 5 2 0#12) (pointing 0x80000006#32) = .next t ∧ Fetchable t ∧
        byteAddr t.pc 2 = byteAddr (displaced ((pointing 0x80000006#32).reg 2) 0#12) 0 := by
  refine ⟨⟨?_, _, rfl, ?_, ?_⟩, ?_, _, rfl, ?_, ?_⟩ <;> (try unfold InRam) <;> (try unfold Fetchable) <;> decide

/-- FencesOnlyAdvance: words of the three rows. -/
theorem witness_fences : ∀ w ∈ [0x8330000F#32, 0x0000100F#32, 0x0FF0728F#32], opcodeOf w = 0x0F#7 := by
  simp only [List.forall_mem_cons, List.not_mem_nil, false_implies, implies_true, and_true]
  decide

/-- CsrAddressTable: numbers its two closing clauses speak of, the two read-only registers and CYCLE among the second. -/
theorem witness_csr_numbers :
    (∀ n ∈ [0xF14#12, 0x180#12, 0xC80#12, 0x000#12],
      n ∉ [0x300#12, 0x301#12, 0x304#12, 0x305#12, 0x340#12, 0x341#12, 0x342#12, 0x343#12, 0x344#12, 0xC00#12, 0xF11#12]) ∧
      ∀ n ∈ [0x301#12, 0xC00#12, 0xF11#12, 0xFFF#12],
        n ∉ [0x300#12, 0x304#12, 0x305#12, 0x340#12, 0x341#12, 0x342#12, 0x343#12, 0x344#12] := by
  simp only [List.forall_mem_cons, List.not_mem_nil, false_implies, implies_true, and_true]
  decide

/-- CsrWriteReadsBack: every writable number, with the old value discarded. -/
theorem witness_csr_write :
    ∀ csr ∈ [0x300#12, 0x304#12, 0x305#12, 0x340#12, 0x341#12, 0x342#12, 0x343#12, 0x344#12],
      ∃ t, exec (.csrrw 0 csr 5) (pointing 0#32) = .next t := fun _ _ => ⟨_, rfl⟩

/-- CallsAndBreakpoints: user mode and machine mode. -/
theorem witness_calls : ({ State.reset with priv := 0#2 } : State).priv.toNat = 0 ∧ State.reset.priv.toNat ≠ 0 := by decide

/-- PrivilegeRestrictsNothing: `MRET` from user mode. -/
theorem witness_privilege : Instr.mret ≠ .ecall ∧ ∃ t, exec .mret { State.reset with priv := 0#2 } = .next t :=
  ⟨by decide, _, rfl⟩

/-- LoadReserved, AtomicOperations: an in-range address, also a misaligned one (the first and the last). -/
theorem witness_atomic_inside :
    ∀ a ∈ [0x80000000#32, 0x80000101#32, 0x80000FFC#32], InRam (pointing a) ((pointing a).reg 2) := by
  simp only [List.forall_mem_cons, List.not_mem_nil, false_implies, implies_true, and_true]
  unfold InRam
  decide

/-- AtomicsOutsideBuffer: past the range, and at every memory-mapped address. -/
theorem witness_atomic_outside :
    ∀ a ∈ [0x80000FFD#32, 0x1100BFF8#32, 0x1100BFFC#32, 0x11004000#32, 0x11004004#32, 0x11100000#32],
      ¬InRam (pointing a) ((pointing a).reg 2) := by
  simp only [List.forall_mem_cons, List.not_mem_nil, false_implies, implies_true, and_true]
  unfold InRam
  decide

/-- A hart that holds a reservation at buffer offset 0x100, with the parameter of rule R316 as given. -/
def reserving (stop broken : Bool) : State :=
  { pointing 0x80000100#32 with
    params := { Config.Params.customary with storeBreaksReservation := stop }, res := 0x100#29, resBroken := broken }

/-- StoreConditional: success, failure by another address, and failure by a store that broke the reservation. -/
theorem witness_store_conditional :
    (InRam (reserving true false) ((reserving true false).reg 2) ∧
        (reserving true false).res.toNat = ((reserving true false).reg 2 - 0x80000000#32).toNat % 2 ^ 29 ∧
        ¬((reserving true false).params.storeBreaksReservation = true ∧ (reserving true false).resBroken = true)) ∧
      (InRam (pointing 0x80000104#32) ((pointing 0x80000104#32).reg 2) ∧
        (pointing 0x80000104#32).res.toNat ≠ ((pointing 0x80000104#32).reg 2 - 0x80000000#32).toNat % 2 ^ 29) ∧
      (reserving true true).params.storeBreaksReservation = true ∧ (reserving true true).resBroken = true := by
  unfold InRam; decide

/-- ReservePairSucceeds: `LR.W` and two `SC.W` through one base register, where stores do not break reservations. -/
theorem witness_reserve_pair :
    InRam (pointing 0x80000FFC#32) ((pointing 0x80000FFC#32).reg 2) ∧
      ∃ t, exec (.lrW 6 2 0 0) (pointing 0x80000FFC#32) = .next t ∧ t.reg 2 = (pointing 0x80000FFC#32).reg 2 ∧
        ∃ u, exec (.scW 7 5 2 0 0) t = .next u ∧ t.params.storeBreaksReservation = false ∧
          u.reg 2 = (pointing 0x80000FFC#32).reg 2 := by
  refine ⟨?_, _, rfl, rfl, _, rfl, rfl, rfl⟩
  unfold InRam; decide

/-- OrderingBitsIgnored: two different words of one `LR.W`. -/
theorem witness_ordering_bits :
    opcodeOf 0x100322AF#32 = 0x2F#7 ∧ 0x100322AF#32 &&& 0xF9FF8FFF#32 = 0x160372AF#32 &&& 0xF9FF8FFF#32 ∧
      (0x100322AF#32 : Word) ≠ 0x160372AF#32 := by decide

/-- The word placed at the reset pc. -/
def placed (w : Nat) : State := State.reset.withFetchWord 32 w

theorem attempts_placed (w : Nat) : Attempts 0#32 (placed w) :=
  ⟨(by decide : State.reset.params.wf = true), fun h => absurd h.1 (by simp [placed, State.withFetchWord, State.write32, State.reset]),
    fun h => absurd h.2.1 (by simp [placed, State.withFetchWord, State.write32, State.reset])⟩

theorem fetchable_placed (w : Nat) : Fetchable (placed w) := by
  show (0x80000000#32 - 0x80000000#32).toNat < (0x1000#32).toNat ∧ (0x80000000#32 - 0x80000000#32).toNat % 4 = 0
  decide

/-- StepRunsDecodedInstruction: an awake hart in the buffer, and a queue the host has filled or left empty. -/
theorem witness_step_runs :
    Attempts 0#32 (placed 0x00128293) ∧ Fetchable (placed 0x00128293) ∧
      decodeBytes (pcBytes (placed 0x00128293)) = .ok (.addi 5 5 1, []) ∧
      ({ State.reset with elapsedQueue := [6#32, 7#32] } : State).elapsedQueue = 6#32 :: [7#32] ∧
      State.reset.elapsedQueue = [] :=
  ⟨attempts_placed _, fetchable_placed _, rfl, rfl, rfl⟩

/-- TimerAdvances, OutcomeByPath, RefusesOnlyParameters: a step that carries into the high half of TIMER. -/
theorem witness_step : ∃ t, stepWith 0xFFFFFFFF#32 { placed 0x00128293 with timerl := 2#32 } = .next t := ⟨_, rfl⟩

/-- MatchSetsPending: TIMER one below, at and one above MATCH, and MATCH 0. -/
theorem witness_match :
    [4#32, 5#32, 6#32].map (fun e => decide (matchNat due ≠ 0 ∧ matchNat due < (timerNat due + e.toNat) % 2 ^ 64)) =
      [false, false, true] ∧ ¬matchNat State.reset ≠ 0 := by decide

/-- SleepGate: asleep with MATCH 0 and asleep below MATCH. -/
theorem witness_sleep :
    StaysAsleep 0xFFFFFFFF#32 { State.reset with sleep := true } ∧ StaysAsleep 5#32 { due with sleep := true } ∧
      (∃ t, stepWith 0#32 (placed 0x10500073) = .next t ∧ t.sleep = true) ∧
      ∃ t, stepWith 6#32 { due with sleep := true } = .next t := by
  refine ⟨?_, ?_, ⟨_, rfl, rfl⟩, _, rfl⟩ <;> unfold StaysAsleep MatchAt <;> decide

/-- TimerInterruptTaken: TIMER one above MATCH, both enables set, from an awake hart and from a sleeping one. -/
theorem witness_interrupt : InterruptDue 6#32 due ∧ InterruptDue 6#32 { due with sleep := true } ∧ due.params.wf = true := by
  unfold InterruptDue MatchAt; decide

/-- FetchFaults: the first address past the buffer, a misaligned one past it, and a misaligned one inside. -/
theorem witness_fetch_faults :
    (∀ p ∈ [0x80001000#32, 0x80001002#32, 0#32],
        Attempts 0#32 { State.reset with pc := p } ∧
          State.reset.params.memLen.toNat ≤ (p - State.reset.params.memBase).toNat) ∧
      Attempts 0#32 { State.reset with pc := 0x80000FFE#32 } ∧
      (0x80000FFE#32 - State.reset.params.memBase).toNat < State.reset.params.memLen.toNat ∧
      (0x80000FFE#32).toNat % 4 ≠ 0 := by
  simp only [List.forall_mem_cons, List.not_mem_nil, false_implies, implies_true, and_true]
  unfold Attempts StaysAsleep InterruptDue MatchAt
  decide

/-- OutcomeByPath: a shutdown store and a `WFI` that reach fetch. -/
theorem witness_outcomes :
    (∃ t, stepWith 0#32 ({ placed 0x00732023 with regs := ((pointing 0#32).setReg 6 0x11100000#32).regs } : State) = .next t ∧
        t.outcome = .shutdown 0#32) ∧
      ∃ t, stepWith 0#32 (placed 0x10500073) = .next t ∧ t.outcome = .sleeping :=
  ⟨⟨_, rfl, rfl⟩, _, rfl, rfl⟩

/-- CycleReadIsCounted: `csrrs x5, cycle, x0` at the reset pc, with the low half about to carry. -/
theorem witness_cycle_read :
    Attempts 0#32 (placed 0xC00022F3) ∧ Fetchable (placed 0xC00022F3) ∧
      decodeBytes (pcBytes (placed 0xC00022F3)) = .ok (.csrrs 5 0xC00 0, []) ∧
      ∃ t, stepWith 0#32 (placed 0xC00022F3) = .next t :=
  ⟨attempts_placed _, fetchable_placed _, rfl, _, rfl⟩

/-- RefusesOnlyParameters: parameters that meet the constraints, at both ends of the address space, and some that break
each of the four. -/
theorem witness_parameters :
    (∀ p ∈ [(0x80000000#32, 0x1000#32), (0#32, 4#32), (0xFFFFFFFC#32, 4#32)],
      ({ Config.Params.customary with memBase := p.1, memLen := p.2 } : Config.Params).wf = true) ∧
      ∀ p ∈ [(0x80000002#32, 0x1000#32), (0x80000000#32, 0x1001#32), (0x80000000#32, 0#32), (0xFFFFFFFC#32, 8#32)],
        ({ Config.Params.customary with memBase := p.1, memLen := p.2 } : Config.Params).wf = false := by
  simp only [List.forall_mem_cons, List.not_mem_nil, false_implies, implies_true, and_true]
  decide

/-- StepKeepsInvariant: the reset state meets the invariant, and its step, with a free `elapsed`, has a next state. -/
theorem witness_invariant : Inv State.reset ∧ ∃ t, step State.reset = .next t :=
  ⟨⟨by decide, by decide, by decide, fun _ hc => by cases hc⟩, _, rfl⟩

/-- OnlyDestinationChanges: a register that is no destination, and a step that changes one. -/
theorem witness_destination :
    destination (.addi 5 5 1) ≠ some 6#5 ∧ destination (.sw 5 2 0) ≠ some 5#5 ∧
      ∃ t, stepWith 0#32 (placed 0x00128293) = .next t ∧ t.reg 5 ≠ (placed 0x00128293).reg 5 := by
  refine ⟨by decide, by decide, _, rfl, ?_⟩
  show (1#32 : Word) ≠ 0#32
  decide

/-- CommitsOrTraps, MemoryFrame: a step that stores at the end of the buffer and one that stores nothing. -/
theorem witness_store_range :
    storeRange (pointing 0x80000FFC#32) (.sw 5 2 0) = some (0x80000FFC#32, 4) ∧
      storeRange (pointing 0x80000FFD#32) (.sw 5 2 0) = none ∧
      storeRange (reserving false false) (.scW 6 5 2 0 0) = some (0x80000100#32, 4) ∧
      storeRange (pointing 0x80000100#32) (.scW 6 5 2 0 0) = none ∧
      (∃ t, exec (.sw 5 2 0) (pointing 0x80000FFC#32) = .next t) ∧
      ∃ t, exec (.sw 5 2 0) (pointing 0x80000FFD#32) = .next t :=
  ⟨by decide, by decide, by decide, by decide, ⟨_, rfl⟩, _, rfl⟩

/-- SystemWordsHaveOneWriter: steps that change MATCH, a CSR, the reservation, `PRIV` both ways, and SLEEP. -/
theorem witness_system_words :
    (∃ t, exec (.sw 5 2 0) (pointing 0x11004000#32) = .next t ∧ matchNat t ≠ matchNat (pointing 0x11004000#32)) ∧
      (∃ t, exec (.csrrw 0 0x340 5) (pointing 0#32) = .next t ∧ t.mscratch ≠ (pointing 0#32).mscratch) ∧
      (∃ t, exec (.lrW 6 2 0 0) (pointing 0x80000100#32) = .next t ∧ t.res ≠ (pointing 0x80000100#32).res) ∧
      (∃ t, exec .mret State.reset = .next t ∧ t.priv ≠ State.reset.priv) ∧
      (∃ t, exec .ecall { State.reset with priv := 0#2 } = .next t ∧ t.priv ≠ 0#2) ∧
      ∃ t, exec .wfi State.reset = .next t ∧ t.sleep ≠ State.reset.sleep := by
  refine ⟨⟨_, rfl, ?_⟩, ⟨_, rfl, ?_⟩, ⟨_, rfl, ?_⟩, ⟨_, rfl, ?_⟩, ⟨_, rfl, ?_⟩, _, rfl, ?_⟩ <;> decide

/-- SleepsForeverWithoutMatch: a sleeping hart whose MATCH is 0. -/
theorem witness_sleeps_forever :
    ({ State.reset with sleep := true } : State).params.wf = true ∧ matchNat { State.reset with sleep := true } = 0 := by
  decide

/-- FaultLoopNeverEnds: `mtvec` 0 outside the buffer, and one inside it that is misaligned. -/
theorem witness_fault_loop :
    ∀ v ∈ [0#32, 0x80000102#32],
      ({ State.reset with pc := v, mtvec := v } : State).params.wf = true ∧
        ¬Fetchable { State.reset with pc := v, mtvec := v } := by
  simp only [List.forall_mem_cons, List.not_mem_nil, false_implies, implies_true, and_true]
  unfold Fetchable
  decide

/-- RunsNeverFail: the reset state may run. -/
theorem witness_runs : State.reset.params.wf = true := by decide

end Sys2Proof.Tests
end

/-! ## Every step is answered, with the same parameters

The parameters of rule R12 are no state a step may change (log 1), and no stage of a step has an outcome for error
(rule R150). -/

namespace Sys2Proof.Machine

variable {s t : State}

/-! ### What keeps the parameters -/

theorem params_of_endEarly {o : StepOutcome} (h : endEarly o s = .next t) : t.params = s.params := by
  rw [endEarly_eq] at h
  cases h
  cases s.params.cycleOnEarlyExit <;> rfl

theorem params_of_returnFromTrap (h : returnFromTrap s = .next t) : t.params = s.params := by
  unfold returnFromTrap at h
  cases h
  rfl

/-- Whichever way an instruction ends, it keeps the parameters. -/
theorem ExecShape.params {i : Instr} (h : ExecShape i s t) : t.params = s.params := by
  cases h with
  | commit rd v => rfl
  | csr rd csr v => exact State.csrWrite_params s csr v
  | store rd v a n m => rfl
  | reserve rd a v => rfl
  | setMatch rs2 rs1 imm lo hi => rfl
  | early o m z _ _ ht => exact (params_of_endEarly ht).trans rfl
  | trap cause tval => rfl
  | mret _ _ ht => exact params_of_returnFromTrap ht

theorem params_of_exec {i : Instr} (h : exec i s = .next t) : t.params = s.params := (shape_of_exec h).params

/-- Whatever a step does, it keeps the parameters. -/
theorem params_of_stepWith {e : Word} (h : stepWith e s = .next t) : t.params = s.params := by
  rcases shape_of_stepWith h with ⟨-, rfl⟩ | ⟨-, -, rfl⟩ | ⟨-, x, -, rfl⟩ | ⟨-, -, -, hexec⟩
  · rfl
  · rfl
  · rfl
  · simpa using params_of_exec hexec

@[simp] theorem drawElapsed_params (s : State) : (drawElapsed s).2.params = s.params := by
  rcases drawElapsed_cases s with ⟨e, rest, -, h⟩ | ⟨-, h⟩ <;> rw [h]

/-! ### What answers -/

/-- Fetch, decode and execute answer in every state: a fetch exception is a trap, and so is an undecodable word. -/
theorem attempt_answers (s : State) : ∃ t, attempt exec s = .next t := by
  rcases attempt_cases s with ⟨x, -, h⟩ | ⟨-, h⟩ <;> rw [h]
  · exact ⟨_, raise_eq s x s.pc⟩
  · obtain ⟨t, ht, -⟩ := exec_shape (decode (s.read32 s.pc)) s
    exact ⟨t, ht⟩

/-- The refused parameters are the only obstacle to a next state (rule R150; log 1). -/
theorem stepWith_answers (e : Word) (hwf : s.params.wf = true) : ∃ t, stepWith e s = .next t := by
  rcases stepWith_cases s e with ⟨hbad, -⟩ | ⟨-, ⟨-, h⟩ | ⟨-, -, h⟩ | ⟨-, -, h⟩⟩
  · simp [hwf] at hbad
  · exact ⟨_, h⟩
  · exact ⟨_, h⟩
  · rw [h]
    exact attempt_answers _

theorem step_answers (hwf : s.params.wf = true) : ∃ t, step s = .next t ∧ t.params = s.params := by
  rw [step_eq]
  obtain ⟨t, ht⟩ := stepWith_answers (drawElapsed s).1 (s := (drawElapsed s).2) (by rwa [drawElapsed_params])
  exact ⟨t, ht, (params_of_stepWith ht).trans (drawElapsed_params s)⟩

/-- Settles O51, by induction on the number of steps: the parameters that let the first step answer are those of the state
it answers with. -/
theorem runsNeverFail : Obligations.RunsNeverFail := by
  unfold Obligations.RunsNeverFail
  intro k
  induction k with
  | zero => exact fun s _ => ⟨s, run_zero s, rfl⟩
  | succ k ih =>
    intro s hwf
    obtain ⟨u, hu, hup⟩ := step_answers hwf
    obtain ⟨t, ht, htp⟩ := ih u (hup ▸ hwf)
    exact ⟨t, (run_succ hu).trans ht, htp.trans hup⟩

end Sys2Proof.Machine

/-! ## Stores inside the buffer, and the loads and fetches after them

Nothing is reordered or cached (rules R76, R79), so what a load or a fetch sees is memory byte by byte. A store is known by
`StoreForm` and a load by `LoadsBytes`; the two claims of the family follow from these alone. -/

namespace Sys2Proof.Machine

variable {s t : State}

/-! ### The bytes of a value -/

theorem append_byte_zero {m : Nat} (hi : BitVec m) (lo : Byte) : (hi ++ lo).extractLsb' 0 8 = lo := by
  rw [BitVec.extractLsb'_append_eq_of_add_le (by omega), BitVec.extractLsb'_eq_self]

theorem append_byte_succ {m : Nat} (hi : BitVec m) (lo : Byte) (j : Nat) :
    (hi ++ lo).extractLsb' (8 * (j + 1)) 8 = hi.extractLsb' (8 * j) 8 := by
  rw [BitVec.extractLsb'_append_eq_of_le (by omega), show 8 * (j + 1) - 8 = 8 * j by omega]

theorem read8_eq (s : State) (a : Word) : s.read8 a = s.mem.read (byteAddr a 0) := by
  rw [State.read8, byteAddr, BitVec.add_zero]

theorem read8_byte (s : State) (a : Word) {j : Nat} (hj : j < 1) :
    (s.read8 a).extractLsb' (8 * j) 8 = s.mem.read (byteAddr a j) := by
  obtain rfl : j = 0 := by omega
  rw [Nat.mul_zero, BitVec.extractLsb'_eq_self, read8_eq]

/-- Byte `j` of a half-word read is the byte in memory at its `j`th address (rule R60). -/
theorem read16_byte (s : State) (a : Word) {j : Nat} (hj : j < 2) :
    (s.read16 a).extractLsb' (8 * j) 8 = s.mem.read (byteAddr a j) := by
  interval_cases j
  · exact (append_byte_zero _ _).trans (read8_eq s a)
  · exact (append_byte_succ _ _ 0).trans BitVec.extractLsb'_eq_self

/-- Byte `j` of a word read is the byte in memory at its `j`th address (rule R60). -/
theorem read32_byte (s : State) (a : Word) {j : Nat} (hj : j < 4) :
    (s.read32 a).extractLsb' (8 * j) 8 = s.mem.read (byteAddr a j) := by
  interval_cases j
  · exact (append_byte_zero _ _).trans (read8_eq s a)
  · exact (append_byte_succ _ _ 0).trans (append_byte_zero _ _)
  · exact (append_byte_succ _ _ 1).trans ((append_byte_succ _ _ 0).trans (append_byte_zero _ _))
  · exact (append_byte_succ _ _ 2).trans
      ((append_byte_succ _ _ 1).trans ((append_byte_succ _ _ 0).trans BitVec.extractLsb'_eq_self))

/-- Sign extension keeps the bits that are there. -/
theorem extractLsb'_signExtend_of_le {w m start len : Nat} (v : BitVec w) (hw : start + len ≤ w) (hm : w ≤ m) :
    (v.signExtend m).extractLsb' start len = v.extractLsb' start len := by
  ext i hi
  rw [BitVec.getElem_extractLsb', BitVec.getElem_extractLsb', BitVec.getLsbD_signExtend,
    decide_eq_true (by omega), Bool.true_and, if_pos (by omega)]

/-- A word is its four bytes. -/
theorem word_eq_of_bytes {v w : Word} (h : ∀ j < 4, v.extractLsb' (8 * j) 8 = w.extractLsb' (8 * j) 8) : v = w := by
  ext i hi
  have hbit := congrArg (fun b : Byte => b.getLsbD (i % 8)) (h (i / 8) (by omega))
  simpa [Nat.mod_lt, Nat.div_add_mod, BitVec.getLsbD_eq_getElem hi] using hbit

/-! ### Stores -/

/-- Inside the buffer a store does what its width says, at the displaced address (rules R67, R200). -/
theorem store_inside {rs2 rs1 : RegIdx} {imm : BitVec 12} {f : Word → Word → State → Result}
    (h : InRam s (displaced (s.reg rs1) imm)) :
    store rs2 rs1 imm f s = f (displaced (s.reg rs1) imm) (s.reg rs2) s := by
  rw [← effAddr_eq] at h ⊢
  exact if_pos ((inRam_iff s _).2 h)

/-- A store instruction whose width writes `n` bytes with `f`. -/
theorem storeForm_of_exec {make : RegIdx → RegIdx → BitVec 12 → Instr} {n : Nat} {f : Word → Word → State → State}
    (hn : 0 < n)
    (hexec : ∀ rs2 rs1 imm s,
      exec (make rs2 rs1 imm) s = store rs2 rs1 imm (fun a v s => finish ((f a v s).afterWrite a n)) s)
    (hmem : ∀ a v s, f a v s = { s with mem := (f a v s).mem })
    (hstored : ∀ a v s, MemStored s (f a v s) a n v) : StoreForm make n := by
  intro rs2 rs1 imm s h
  rw [hexec, store_inside h]
  exact stores_finish s hn (hmem _ _ s) (hstored _ _ s)

theorem storeForm_sb : StoreForm .sb 1 :=
  storeForm_of_exec (f := fun a v s => s.write8 a (v.extractLsb' 0 8)) (by decide) (fun _ _ _ _ => rfl)
    (fun _ _ _ => rfl) fun a v s => memStored_write8 s a v

theorem storeForm_sh : StoreForm .sh 2 :=
  storeForm_of_exec (f := fun a v s => s.write16 a (v.extractLsb' 0 16)) (by decide) (fun _ _ _ _ => rfl)
    (fun _ _ _ => rfl) fun a v s => memStored_write16 s a v

theorem storeForm_sw : StoreForm .sw 4 :=
  storeForm_of_exec (f := fun a v s => s.write32 a v) (by decide) (fun _ _ _ _ => rfl)
    (fun _ _ _ => rfl) fun a v s => memStored_write32 s a v

/-- What a store inside the buffer has done, once it answered. -/
theorem StoreForm.stores {make : RegIdx → RegIdx → BitVec 12 → Instr} {n : Nat} (hf : StoreForm make n)
    {rs2 rs1 : RegIdx} {imm : BitVec 12} (h : InRam s (displaced (s.reg rs1) imm))
    (ht : exec (make rs2 rs1 imm) s = .next t) : Stores s t (displaced (s.reg rs1) imm) n (s.reg rs2) := by
  obtain ⟨u, hu, hst⟩ := hf rs2 rs1 imm s h
  cases hu.symm.trans ht
  exact hst

/-- A store moves no buffer. -/
theorem Stores.inRam_iff {a v b : Word} {n : Nat} (h : Stores s t a n v) : InRam t b ↔ InRam s b := by
  obtain ⟨-, -, -, -, hkept, -⟩ := h
  unfold InRam
  rw [hkept.params]

/-! ### Loads -/

/-- Inside the buffer a load does what its width says, at the displaced address (rules R67, R190). -/
theorem load_inside {rd rs1 : RegIdx} {imm : BitVec 12} {f : Word → State → Result}
    (h : InRam s (displaced (s.reg rs1) imm)) : load rd rs1 imm f s = f (displaced (s.reg rs1) imm) s := by
  rw [← effAddr_eq] at h ⊢
  exact if_pos ((inRam_iff s _).2 h)

/-- A load inside the buffer leaves the `n` bytes at its address in the low bytes of its destination, however it extends
them (rule R190). -/
def LoadsBytes (make : RegIdx → RegIdx → BitVec 12 → Instr) (n : Nat) : Prop :=
  ∀ (rd rs1 : RegIdx) (imm : BitVec 12) (s : State), InRam s (displaced (s.reg rs1) imm) → rd ≠ 0#5 →
    ∃ u, exec (make rd rs1 imm) s = .next u ∧
      ∀ j < n, (u.reg rd).extractLsb' (8 * j) 8 = s.mem.read (byteAddr (displaced (s.reg rs1) imm) j)

/-- A load instruction whose width and extension give the register the value `f`. -/
theorem loadsBytes_of_exec {make : RegIdx → RegIdx → BitVec 12 → Instr} {n : Nat} {f : Word → State → Word}
    (hexec : ∀ rd rs1 imm s, exec (make rd rs1 imm) s = load rd rs1 imm (fun a s => writeBack rd (f a s) s) s)
    (hbytes : ∀ a s, ∀ j < n, (f a s).extractLsb' (8 * j) 8 = s.mem.read (byteAddr a j)) : LoadsBytes make n := by
  intro rd rs1 imm s h hrd
  rw [hexec, load_inside h]
  obtain ⟨u, hu, ⟨-, hreg, -⟩, -⟩ := completes_writeBack s rd (f (displaced (s.reg rs1) imm) s)
  exact ⟨u, hu, fun j hj => by rw [hreg hrd, hbytes _ _ j hj]⟩

theorem loadsBytes_lb : LoadsBytes .lb 1 :=
  loadsBytes_of_exec (fun _ _ _ _ => rfl) fun a s _ hj =>
    (extractLsb'_signExtend_of_le _ (by omega) (by decide)).trans (read8_byte s a hj)

theorem loadsBytes_lh : LoadsBytes .lh 2 :=
  loadsBytes_of_exec (fun _ _ _ _ => rfl) fun a s _ hj =>
    (extractLsb'_signExtend_of_le _ (by omega) (by decide)).trans (read16_byte s a hj)

theorem loadsBytes_lw : LoadsBytes .lw 4 :=
  loadsBytes_of_exec (fun _ _ _ _ => rfl) fun a s _ hj => read32_byte s a hj

theorem loadsBytes_lbu : LoadsBytes .lbu 1 :=
  loadsBytes_of_exec (fun _ _ _ _ => rfl) fun a s _ hj =>
    (BitVec.extractLsb'_setWidth_of_le (by omega)).trans (read8_byte s a hj)

theorem loadsBytes_lhu : LoadsBytes .lhu 2 :=
  loadsBytes_of_exec (fun _ _ _ _ => rfl) fun a s _ hj =>
    (BitVec.extractLsb'_setWidth_of_le (by omega)).trans (read16_byte s a hj)

/-! ### A load after a store -/

/-- What the store left in memory is what the load reads: the base of the load and the buffer are as before the store. -/
theorem StoreForm.loadSees {store load : RegIdx → RegIdx → BitVec 12 → Instr} {stored loaded : Nat}
    (hs : StoreForm store stored) (hl : LoadsBytes load loaded) : LoadSees store load stored loaded := by
  intro rs2 rs1 rd rb imm disp s t hin hin' hrd ht
  have hst := hs.stores hin ht
  have hin'' := hst.inRam_iff.2 hin'
  obtain ⟨hregs, ⟨hnew, hold⟩, -⟩ := hst
  rw [← hregs rb] at hin''
  obtain ⟨u, hu, hbytes⟩ := hl rd rb disp t hin'' hrd
  rw [hregs rb] at hbytes
  refine ⟨u, hu, fun j hj => ⟨fun k hk hjk => ?_, fun hne => ?_⟩⟩
  · rw [hbytes j hj, hjk, hnew k hk]
  · rw [hbytes j hj, hold _ hne]

theorem StoreForm.seenByLoads {store : RegIdx → RegIdx → BitVec 12 → Instr} {stored : Nat} (hs : StoreForm store stored) :
    SeenByLoads store stored :=
  ⟨hs.loadSees loadsBytes_lb, hs.loadSees loadsBytes_lh, hs.loadSees loadsBytes_lw, hs.loadSees loadsBytes_lbu,
    hs.loadSees loadsBytes_lhu⟩

/-- Settles O25: a store leaves its bytes and the old ones in memory, a load reads memory; for the word, byte by byte. -/
theorem loadAfterStore : Obligations.LoadAfterStore := by
  unfold Obligations.LoadAfterStore
  refine ⟨storeForm_sb.seenByLoads, storeForm_sh.seenByLoads, storeForm_sw.seenByLoads, ?_⟩
  intro rs2 rs1 rd rb imm disp s t hin haddr hrd ht
  obtain ⟨u, hu, hseen⟩ :=
    storeForm_sw.loadSees loadsBytes_lw rs2 rs1 rd rb imm disp s t hin (haddr ▸ hin) hrd ht
  exact ⟨u, hu, word_eq_of_bytes fun j hj => (hseen j hj).1 j hj (by rw [haddr])⟩

/-! ### A fetch after a store -/

theorem StoreForm.fetchSees {make : RegIdx → RegIdx → BitVec 12 → Instr} {width : Nat} (hs : StoreForm make width) :
    FetchSees make width := by
  intro rs2 rs1 imm s t hin ht hfetch
  obtain ⟨-, ⟨hnew, -⟩, hpc, -⟩ := hs.stores hin ht
  exact ⟨hpc, t.read32 t.pc, fetch_of_fetchable t hfetch, fun k hk j hj hjk => by rw [read32_byte t _ hj, hjk, hnew k hk]⟩

/-- Settles O26: a fetch reads memory at the pc, and memory is what the store left. -/
theorem fetchSeesStore : Obligations.FetchSeesStore := by
  unfold Obligations.FetchSeesStore
  refine ⟨fun s h => ?_, storeForm_sb.fetchSees, storeForm_sh.fetchSees, storeForm_sw.fetchSees⟩
  rw [fetch_of_fetchable s h, read32_eq]

end Sys2Proof.Machine

/-! ## The immediates of a word

Each immediate is first the sum of its fields, as the rule of its format orders them (rules R103 to R107); sign extension
then only turns the weight of the top bit negative. -/

namespace Sys2Proof.Machine

/-! ### Sign extension in integers -/

section
variable {n : Nat} (x : BitVec (n + 1)) (h : n + 1 ≤ 32)
include h

/-- The top bit of a sign-extended value weighs `-2^n`, the bits below it what they weigh unsigned. -/
theorem toInt_signExtend_of_sum {sign rest : Nat} (hx : x.toNat = sign * 2 ^ n + rest) (hrest : rest < 2 ^ n) :
    (x.signExtend 32).toInt = rest - 2 ^ n * (sign : Int) := by
  have hlt : sign * 2 ^ n + rest < 2 * 2 ^ n := by rw [← hx, ← Nat.pow_succ']; exact x.isLt
  have hsign : sign < 2 := Nat.lt_of_mul_lt_mul_right (Nat.lt_of_le_of_lt (Nat.le_add_right _ rest) hlt)
  rw [BitVec.toInt_signExtend_of_le h, BitVec.toInt_eq_toNat_cond, hx, pow_succ]
  interval_cases sign
  · rw [if_pos (by omega)]
    push_cast
    ring
  · rw [if_neg (by omega)]
    push_cast
    ring

theorem le_toInt_signExtend : -2 ^ n ≤ (x.signExtend 32).toInt := by
  rw [BitVec.toInt_signExtend_of_le h]
  exact BitVec.le_toInt x

theorem toInt_signExtend_lt : (x.signExtend 32).toInt < 2 ^ n := by
  rw [BitVec.toInt_signExtend_of_le h]
  exact BitVec.toInt_lt

end

/-! ### The bits of each immediate, summed -/

section
variable (w : Word)

theorem toNat_field (lo len : Nat) : (w.extractLsb' lo len).toNat = w.toNat / 2 ^ lo % 2 ^ len := by
  rw [BitVec.extractLsb'_toNat, Nat.shiftRight_eq_div_pow]

theorem toNat_imm12Of : (imm12Of w).toNat = w.toNat / 2 ^ 31 * 2 ^ 11 + w.toNat / 2 ^ 20 % 2 ^ 11 := by
  have hw := w.isLt
  unfold imm12Of
  rw [toNat_field]
  omega

theorem toNat_immSOf : (immSOf w).toNat =
    w.toNat / 2 ^ 31 * 2 ^ 11 + (w.toNat / 2 ^ 25 % 2 ^ 6 * 2 ^ 5 + w.toNat / 2 ^ 7 % 2 ^ 5) := by
  have hw := w.isLt
  refine (toNat_append_add _ _).trans ?_
  simp only [toNat_field]
  omega

theorem toNat_immBOf : (immBOf w).toNat = w.toNat / 2 ^ 31 * 2 ^ 12 +
    (w.toNat / 2 ^ 7 % 2 * 2 ^ 11 + w.toNat / 2 ^ 25 % 2 ^ 6 * 2 ^ 5 + w.toNat / 2 ^ 8 % 2 ^ 4 * 2) := by
  have hw := w.isLt
  refine (toNat_append_add _ _).trans ?_
  simp only [toNat_append_add, toNat_field, BitVec.toNat_ofNat]
  omega

theorem toNat_immJOf : (immJOf w).toNat = w.toNat / 2 ^ 31 * 2 ^ 20 +
    (w.toNat / 2 ^ 12 % 2 ^ 8 * 2 ^ 12 + w.toNat / 2 ^ 20 % 2 * 2 ^ 11 + w.toNat / 2 ^ 21 % 2 ^ 10 * 2) := by
  have hw := w.isLt
  refine (toNat_append_add _ _).trans ?_
  simp only [toNat_append_add, toNat_field, BitVec.toNat_ofNat]
  omega

/-! ### Each immediate as an integer -/

theorem toInt_immI : (imm12 (imm12Of w)).toInt =
    (w.toNat / 2 ^ 20 % 2 ^ 11 : Nat) - 2 ^ 11 * ((w.toNat / 2 ^ 31 : Nat) : Int) :=
  toInt_signExtend_of_sum _ (by decide) (toNat_imm12Of w) (by omega)

theorem toInt_immS : (imm12 (immSOf w)).toInt =
    (w.toNat / 2 ^ 25 % 2 ^ 6 * 2 ^ 5 + w.toNat / 2 ^ 7 % 2 ^ 5 : Nat) - 2 ^ 11 * ((w.toNat / 2 ^ 31 : Nat) : Int) :=
  toInt_signExtend_of_sum _ (by decide) (toNat_immSOf w) (by omega)

theorem toInt_immB : (immBranch (immBOf w)).toInt =
    (w.toNat / 2 ^ 7 % 2 * 2 ^ 11 + w.toNat / 2 ^ 25 % 2 ^ 6 * 2 ^ 5 + w.toNat / 2 ^ 8 % 2 ^ 4 * 2 : Nat)
      - 2 ^ 12 * ((w.toNat / 2 ^ 31 : Nat) : Int) :=
  toInt_signExtend_of_sum _ (by decide) (toNat_immBOf w) (by omega)

theorem toNat_immU : (immUpper (immUOf w)).toNat = w.toNat / 2 ^ 12 * 2 ^ 12 := by
  have hw := w.isLt
  refine (toNat_append_add _ _).trans ?_
  rw [immUOf, toNat_field, BitVec.toNat_ofNat]
  omega

theorem toInt_immJ : (immJump (immJOf w)).toInt =
    (w.toNat / 2 ^ 12 % 2 ^ 8 * 2 ^ 12 + w.toNat / 2 ^ 20 % 2 * 2 ^ 11 + w.toNat / 2 ^ 21 % 2 ^ 10 * 2 : Nat)
      - 2 ^ 20 * ((w.toNat / 2 ^ 31 : Nat) : Int) :=
  toInt_signExtend_of_sum _ (by decide) (toNat_immJOf w) (by omega)

/-! ### Ranges -/

theorem imm12_range (imm : BitVec 12) : -2048 ≤ (imm12 imm).toInt ∧ (imm12 imm).toInt ≤ 2047 :=
  ⟨le_toInt_signExtend imm (by decide), Int.le_of_lt_add_one (toInt_signExtend_lt imm (by decide))⟩

theorem immB_even : (immBranch (immBOf w)).toInt % 2 = 0 := by
  rw [toInt_immB]
  omega

theorem immB_range : -4096 ≤ (immBranch (immBOf w)).toInt ∧ (immBranch (immBOf w)).toInt ≤ 4094 := by
  have heven := immB_even w
  have hlt : (immBranch (immBOf w)).toInt < 4096 := toInt_signExtend_lt (immBOf w) (by decide)
  exact ⟨le_toInt_signExtend (immBOf w) (by decide), by omega⟩

theorem immJ_even : (immJump (immJOf w)).toInt % 2 = 0 := by
  rw [toInt_immJ]
  omega

theorem immJ_range : -1048576 ≤ (immJump (immJOf w)).toInt ∧ (immJump (immJOf w)).toInt ≤ 1048574 := by
  have heven := immJ_even w
  have hlt : (immJump (immJOf w)).toInt < 1048576 := toInt_signExtend_lt (immJOf w) (by decide)
  exact ⟨le_toInt_signExtend (immJOf w) (by decide), by omega⟩

end

/-- Settles O5: the top bit of each signed immediate is `ir[31]`, and the last bit of a branch or jump offset is 0. -/
theorem immediatesOfWord : Obligations.ImmediatesOfWord := by
  unfold Obligations.ImmediatesOfWord
  intro w
  exact ⟨toInt_immI w, toInt_immS w, toInt_immB w, toNat_immU w, toInt_immJ w, imm12_range _, imm12_range _,
    ⟨immB_even w, immB_range w⟩, immJ_even w, immJ_range w⟩

end Sys2Proof.Machine

/-! ## Upper immediates

A mask that holds a whole field fixes that field of every word it admits, so a word of one of the two opcodes reaches
its arm of the decoder. -/

namespace Sys2Proof.Machine

/-- A word that meets a mask and a pattern has the pattern's field wherever the mask holds all the field's bits. -/
theorem field_of_masked {w mask pattern : Word} {lo len : Nat} (h : w &&& mask = pattern)
    (hmask : mask.extractLsb' lo len = BitVec.allOnes len) : w.extractLsb' lo len = pattern.extractLsb' lo len := by
  rw [← h, BitVec.extractLsb'_and, hmask, BitVec.and_allOnes]

/-- A row whose mask is the opcode alone decodes as the decoder's arm for that opcode. -/
theorem decodesAs_of_opcode {pattern : Word} {f : Word → Instr}
    (h : ∀ w, opcodeOf w = opcodeOf pattern → decode w = f w) : DecodesAs 0x0000007F#32 pattern f :=
  fun w hw => h w (field_of_masked hw (by decide))

theorem decode_lui {w : Word} (h : opcodeOf w = 0x37#7) : decode w = .lui (rdOf w) (immUOf w) := by
  simp only [decode, h]

theorem decode_auipc {w : Word} (h : opcodeOf w = 0x17#7) : decode w = .auipc (rdOf w) (immUOf w) := by
  simp only [decode, h]

/-- The upper immediate is the 20-bit field times `2^12` (rule R106). -/
theorem immUpper_eq (imm : BitVec 20) : immUpper imm = BitVec.ofNat 32 (imm.toNat * 2 ^ 12) := by
  have hsum : (immUpper imm).toNat = imm.toNat * 2 ^ 12 := by
    rw [immUpper, toNat_append_add, BitVec.toNat_ofNat, Nat.zero_mod, Nat.zero_add]
  rw [← hsum, BitVec.ofNat_toNat, BitVec.setWidth_eq]

theorem add_immUpper (a : Word) (imm : BitVec 20) :
    a + immUpper imm = BitVec.ofNat 32 (a.toNat + imm.toNat * 2 ^ 12) := by
  rw [immUpper_eq, BitVec.ofNat_add, BitVec.ofNat_toNat, BitVec.setWidth_eq]

theorem exec_lui (rd : RegIdx) (imm : BitVec 20) (s : State) :
    exec (.lui rd imm) s = writeBack rd (immUpper imm) s := rfl

theorem exec_auipc (rd : RegIdx) (imm : BitVec 20) (s : State) :
    exec (.auipc rd imm) s = writeBack rd (s.pc + immUpper imm) s := rfl

/-- Settles O8: the opcode alone selects the arm, and each instruction is one register write. -/
theorem upperImmediates : Obligations.UpperImmediates := by
  unfold Obligations.UpperImmediates
  refine ⟨decodesAs_of_opcode fun _ => decode_lui, decodesAs_of_opcode fun _ => decode_auipc, ?_⟩
  refine fun rd imm s => ⟨?_, ?_⟩
  · rw [exec_lui, immUpper_eq]
    exact completes_writeBack s rd _
  · rw [exec_auipc, add_immUpper]
    exact completes_writeBack s rd _

end Sys2Proof.Machine

/-! ## Conditional branches

The six branches are one operation under six comparisons (rule R172), so each is settled by its `funct3`, its
comparison, and one lemma for the operation. -/

namespace Sys2Proof.Machine

/-- A row whose mask is the opcode and `funct3` decodes as the decoder's arm for the two. -/
theorem decodesAs_of_opcode_funct3 {pattern : Word} {f : Word → Instr}
    (h : ∀ w, opcodeOf w = opcodeOf pattern → funct3Of w = funct3Of pattern → decode w = f w) :
    DecodesAs 0x0000707F#32 pattern f :=
  fun w hw => h w (field_of_masked hw (by decide)) (field_of_masked hw (by decide))

theorem decode_of_branch_opcode {w : Word} (h : opcodeOf w = 0x63#7) : decode w = decodeBranch w := by
  simp only [decode, h]

/-- The target of a taken branch, the offset read as a signed number (rules R105, R172). -/
theorem add_immBranch (a : Word) (offset : BitVec 13) :
    a + immBranch offset = BitVec.ofInt 32 (a.toInt + offset.toInt) :=
  add_signExtend a offset (by decide)

/-- A row of the branch group whose instruction executes as `branch` on a test of `cond` branches on `cond`. -/
theorem branchForm_of_exec {pattern : Word} {make : RegIdx → RegIdx → BitVec 13 → Instr} {test : Word → Word → Bool}
    {cond : Word → Word → Prop} (hopcode : opcodeOf pattern = 0x63#7)
    (hdecode : ∀ w, funct3Of w = funct3Of pattern → decodeBranch w = make (rs1Of w) (rs2Of w) (immBOf w))
    (hexec : ∀ rs1 rs2 offset s, exec (make rs1 rs2 offset) s = branch test rs1 rs2 offset s)
    (htest : ∀ a b, test a b = true ↔ cond a b) : BranchForm pattern make cond := by
  refine ⟨decodesAs_of_opcode_funct3 fun w hop hf3 => ?_, fun rs1 rs2 offset s => ?_⟩
  · exact (decode_of_branch_opcode (hop.trans hopcode)).trans (hdecode w hf3)
  · rw [hexec, ← htest, ← add_immBranch]
    rcases branch_cases s test rs1 rs2 offset with ⟨htrue, hbranch⟩ | ⟨hfalse, hbranch⟩ <;> rw [hbranch]
    · exact ⟨fun _ => goesTo_jumpTo s _, fun hnot => absurd htrue hnot⟩
    · exact ⟨fun htrue => absurd htrue (Bool.eq_false_iff.mp hfalse), fun _ => goesTo_finish s⟩

/-! ### The six branches -/

theorem branchForm_beq : BranchForm 0x00000063#32 .beq (fun a b => a.toNat = b.toNat) :=
  branchForm_of_exec (by decide) (fun _ h => by rw [decodeBranch, h]; rfl) (fun _ _ _ _ => rfl)
    fun a b => by rw [beq_iff_eq, BitVec.toNat_inj]

theorem branchForm_bne : BranchForm 0x00001063#32 .bne (fun a b => a.toNat ≠ b.toNat) :=
  branchForm_of_exec (by decide) (fun _ h => by rw [decodeBranch, h]; rfl) (fun _ _ _ _ => rfl)
    fun a b => by rw [bne_iff_ne, Ne, Ne, BitVec.toNat_inj]

theorem branchForm_blt : BranchForm 0x00004063#32 .blt (fun a b => a.toInt < b.toInt) :=
  branchForm_of_exec (by decide) (fun _ h => by rw [decodeBranch, h]; rfl) (fun _ _ _ _ => rfl)
    fun _ _ => BitVec.slt_iff_toInt_lt

theorem branchForm_bge : BranchForm 0x00005063#32 .bge (fun a b => a.toInt ≥ b.toInt) :=
  branchForm_of_exec (by decide) (fun _ h => by rw [decodeBranch, h]; rfl) (fun _ _ _ _ => rfl)
    fun a b => by rw [Bool.not_eq_true', ← Bool.not_eq_true, BitVec.slt_iff_toInt_lt, Int.not_lt, ge_iff_le]

theorem branchForm_bltu : BranchForm 0x00006063#32 .bltu (fun a b => a.toNat < b.toNat) :=
  branchForm_of_exec (by decide) (fun _ h => by rw [decodeBranch, h]; rfl) (fun _ _ _ _ => rfl)
    fun _ _ => BitVec.ult_iff_lt

theorem branchForm_bgeu : BranchForm 0x00007063#32 .bgeu (fun a b => a.toNat ≥ b.toNat) :=
  branchForm_of_exec (by decide) (fun _ h => by rw [decodeBranch, h]; rfl) (fun _ _ _ _ => rfl)
    fun a b => by rw [Bool.not_eq_true', ← Bool.not_eq_true, BitVec.ult_iff_lt, BitVec.lt_def, Nat.not_lt, ge_iff_le]

/-- Settles O10, branch by branch: each is the one `branch` of the model under its own comparison. -/
theorem conditionalBranches : Obligations.ConditionalBranches := by
  unfold Obligations.ConditionalBranches
  exact ⟨branchForm_beq, branchForm_bne, branchForm_blt, branchForm_bge, branchForm_bltu, branchForm_bgeu⟩

end Sys2Proof.Machine

/-! ## Integer operations

A row of Op-Immediate or of Op is one register write of a function of its operands (rule R220), so each is settled by the
arm of the decoder its selector bits reach, by that function, and by what the function is in integers. -/

namespace Sys2Proof.Machine

/-! ### The functions in integers -/

theorem truth_slt (a b : Word) : truth (a.slt b) = if a.toInt < b.toInt then 1#32 else 0#32 := by
  simp only [truth, BitVec.slt_iff_toInt_lt]

theorem truth_ult (a b : Word) : truth (a.ult b) = if a.toNat < b.toNat then 1#32 else 0#32 := by
  simp only [truth, BitVec.ult_iff_lt, BitVec.lt_def]

/-- A sign-extended immediate read as unsigned (rule R223). -/
theorem toNat_imm12 (imm : BitVec 12) : ((imm12 imm).toNat : Int) = imm.toInt % 2 ^ 32 := by
  rw [imm12, BitVec.signExtend, BitVec.toNat_ofInt]
  omega

theorem add_eq_ofNat (a b : Word) : a + b = BitVec.ofNat 32 (a.toNat + b.toNat) := rfl

theorem sub_eq_ofInt (a b : Word) : a - b = BitVec.ofInt 32 (a.toNat - b.toNat) := by
  apply BitVec.eq_of_toNat_eq
  rw [BitVec.toNat_sub, BitVec.toNat_ofInt]
  omega

theorem shiftLeft_eq_ofNat (a : Word) (n : Nat) : a <<< n = BitVec.ofNat 32 (a.toNat * 2 ^ n) := by
  apply BitVec.eq_of_toNat_eq
  rw [BitVec.toNat_shiftLeft, Nat.shiftLeft_eq, BitVec.toNat_ofNat]

theorem ushiftRight_eq_ofNat (a : Word) (n : Nat) : a >>> n = BitVec.ofNat 32 (a.toNat / 2 ^ n) := by
  rw [← Nat.shiftRight_eq_div_pow, ← BitVec.toNat_ushiftRight, BitVec.ofNat_toNat, BitVec.setWidth_eq]

theorem sshiftRight_eq_ofInt (a : Word) (n : Nat) : a.sshiftRight n = BitVec.ofInt 32 (a.toInt / 2 ^ n) := by
  rw [BitVec.sshiftRight_eq, Int.shiftRight_eq_div_pow, Nat.cast_pow, Nat.cast_ofNat]

/-- The amount of a register shift is the register modulo 32 (rule R245). -/
theorem regShamt_eq (b : Word) : regShamt b = b.toNat % 32 := by
  simp [regShamt]

/-! ### Op-Immediate -/

theorem decode_of_opImm_opcode {w : Word} (h : opcodeOf w = 0x13#7) : decode w = decodeOpImm w := by
  simp only [decode, h]

/-- A row of Op-Immediate whose instruction executes as `opImm f` leaves the result `f` has on the
sign-extended immediate. -/
theorem immediateForm_of_exec {pattern : Word} {make : RegIdx → RegIdx → BitVec 12 → Instr} {f : Word → Word → Word}
    {result : Word → Int → Word} (hopcode : opcodeOf pattern = 0x13#7)
    (hdecode : ∀ w, funct3Of w = funct3Of pattern → decodeOpImm w = make (rdOf w) (rs1Of w) (imm12Of w))
    (hexec : ∀ rd rs1 imm s, exec (make rd rs1 imm) s = opImm f rd rs1 imm s)
    (hresult : ∀ a imm, f a (imm12 imm) = result a imm.toInt) : ImmediateForm pattern make result := by
  refine ⟨decodesAs_of_opcode_funct3 fun w hop hf3 => ?_, fun rd rs1 imm s => ?_⟩
  · exact (decode_of_opImm_opcode (hop.trans hopcode)).trans (hdecode w hf3)
  · rw [hexec, opImm, hresult]
    exact completes_writeBack s rd _

theorem immediateForm_addi : ImmediateForm 0x00000013#32 .addi (fun a n => BitVec.ofInt 32 (a.toInt + n)) :=
  immediateForm_of_exec (by decide) (fun _ h => by rw [decodeOpImm, h]; rfl) (fun _ _ _ _ => rfl)
    fun a imm => add_signExtend a imm (by decide)

theorem immediateForm_slti : ImmediateForm 0x00002013#32 .slti (fun a n => if a.toInt < n then 1#32 else 0#32) :=
  immediateForm_of_exec (f := fun a b => truth (a.slt b)) (by decide) (fun _ h => by rw [decodeOpImm, h]; rfl)
    (fun _ _ _ _ => rfl) fun a imm => by rw [truth_slt, imm12, BitVec.toInt_signExtend_of_le (by decide)]

theorem immediateForm_sltiu :
    ImmediateForm 0x00003013#32 .sltiu (fun a n => if (a.toNat : Int) < n % 2 ^ 32 then 1#32 else 0#32) :=
  immediateForm_of_exec (f := fun a b => truth (a.ult b)) (by decide) (fun _ h => by rw [decodeOpImm, h]; rfl)
    (fun _ _ _ _ => rfl) fun a imm => by simp only [truth_ult, ← toNat_imm12, Nat.cast_lt]

theorem immediateForm_xori : ImmediateForm 0x00004013#32 .xori (fun a n => a ^^^ BitVec.ofInt 32 n) :=
  immediateForm_of_exec (by decide) (fun _ h => by rw [decodeOpImm, h]; rfl) (fun _ _ _ _ => rfl) fun _ _ => rfl

theorem immediateForm_ori : ImmediateForm 0x00006013#32 .ori (fun a n => a ||| BitVec.ofInt 32 n) :=
  immediateForm_of_exec (by decide) (fun _ h => by rw [decodeOpImm, h]; rfl) (fun _ _ _ _ => rfl) fun _ _ => rfl

theorem immediateForm_andi : ImmediateForm 0x00007013#32 .andi (fun a n => a &&& BitVec.ofInt 32 n) :=
  immediateForm_of_exec (by decide) (fun _ h => by rw [decodeOpImm, h]; rfl) (fun _ _ _ _ => rfl) fun _ _ => rfl

/-- Settles O11, row by row: each is the one `opImm` of the model under its own function. -/
theorem immediateOperations : Obligations.ImmediateOperations := by
  unfold Obligations.ImmediateOperations
  exact ⟨immediateForm_addi, immediateForm_slti, immediateForm_sltiu, immediateForm_xori, immediateForm_ori,
    immediateForm_andi⟩

/-! ### Op with `ir[25] = 0` -/

/-- A word that meets a mask and a pattern has the pattern's bit wherever the mask has the bit. -/
theorem bit_of_masked {w mask pattern : Word} {i : Nat} (h : w &&& mask = pattern) (hmask : mask.getLsbD i = true) :
    w.getLsbD i = pattern.getLsbD i := by
  rw [← h, BitVec.getLsbD_and, hmask, Bool.and_true]

theorem decode_of_opBase_selectors {w : Word} (hopcode : opcodeOf w = 0x33#7) (hmul : mulBitOf w = false) :
    decode w = decodeOpBase w := by
  simp [decode, hopcode, hmul]

/-- A row whose instruction executes as `opReg f` leaves the result `f` has on the two registers. -/
theorem registerForm_of_exec {mask pattern : Word} {make : RegIdx → RegIdx → RegIdx → Instr}
    {f result : Word → Word → Word}
    (hdecode : DecodesAs mask pattern fun w => make (rdOf w) (rs1Of w) (rs2Of w))
    (hexec : ∀ rd rs1 rs2 s, exec (make rd rs1 rs2) s = opReg f rd rs1 rs2 s)
    (hresult : ∀ a b, f a b = result a b) : RegisterForm mask pattern make result := by
  refine ⟨hdecode, fun rd rs1 rs2 s => ?_⟩
  rw [hexec, opReg, hresult]
  exact completes_writeBack s rd _

/-- A row of Op's base operations decodes as the arm for its `funct3`, and for `ir[30]` where its mask has that bit. -/
theorem decodesAs_of_opBase {mask pattern : Word} {f : Word → Instr} (hmask : mask &&& 0x0200707F#32 = 0x0200707F#32)
    (hpattern : opcodeOf pattern = 0x33#7 ∧ mulBitOf pattern = false)
    (h : ∀ w, funct3Of w = funct3Of pattern → (extraBitOf mask = true → extraBitOf w = extraBitOf pattern) →
      decodeOpBase w = f w) : DecodesAs mask pattern f := by
  intro w hw
  obtain ⟨hopcode, hmul⟩ := hpattern
  have hop : opcodeOf w = opcodeOf pattern := field_of_masked hw (field_of_masked hmask (by decide))
  have hf3 : funct3Of w = funct3Of pattern := field_of_masked hw (field_of_masked hmask (by decide))
  have hbit : mulBitOf w = mulBitOf pattern := bit_of_masked hw (bit_of_masked hmask (by decide))
  exact (decode_of_opBase_selectors (hop.trans hopcode) (hbit.trans hmul)).trans (h w hf3 (bit_of_masked hw))

theorem registerForm_add :
    RegisterForm 0x4200707F#32 0x00000033#32 .add (fun a b => BitVec.ofNat 32 (a.toNat + b.toNat)) :=
  registerForm_of_exec
    (decodesAs_of_opBase (by decide) (by decide) fun _ h hx => by rw [decodeOpBase, h, hx (by decide)]; rfl)
    (fun _ _ _ _ => rfl) add_eq_ofNat

theorem registerForm_sub :
    RegisterForm 0x4200707F#32 0x40000033#32 .sub (fun a b => BitVec.ofInt 32 (a.toNat - b.toNat)) :=
  registerForm_of_exec
    (decodesAs_of_opBase (by decide) (by decide) fun _ h hx => by rw [decodeOpBase, h, hx (by decide)]; rfl)
    (fun _ _ _ _ => rfl) sub_eq_ofInt

theorem registerForm_sll :
    RegisterForm 0x0200707F#32 0x00001033#32 .sll (fun a b => BitVec.ofNat 32 (a.toNat * 2 ^ (b.toNat % 32))) :=
  registerForm_of_exec (f := fun a b => a <<< regShamt b)
    (decodesAs_of_opBase (by decide) (by decide) fun _ h _ => by rw [decodeOpBase, h]; rfl)
    (fun _ _ _ _ => rfl) fun a b => by rw [regShamt_eq, shiftLeft_eq_ofNat]

theorem registerForm_slt :
    RegisterForm 0x0200707F#32 0x00002033#32 .slt (fun a b => if a.toInt < b.toInt then 1#32 else 0#32) :=
  registerForm_of_exec (decodesAs_of_opBase (by decide) (by decide) fun _ h _ => by rw [decodeOpBase, h]; rfl)
    (fun _ _ _ _ => rfl) truth_slt

theorem registerForm_sltu :
    RegisterForm 0x0200707F#32 0x00003033#32 .sltu (fun a b => if a.toNat < b.toNat then 1#32 else 0#32) :=
  registerForm_of_exec (decodesAs_of_opBase (by decide) (by decide) fun _ h _ => by rw [decodeOpBase, h]; rfl)
    (fun _ _ _ _ => rfl) truth_ult

theorem registerForm_xor : RegisterForm 0x0200707F#32 0x00004033#32 .xor (fun a b => a ^^^ b) :=
  registerForm_of_exec (decodesAs_of_opBase (by decide) (by decide) fun _ h _ => by rw [decodeOpBase, h]; rfl)
    (fun _ _ _ _ => rfl) fun _ _ => rfl

theorem registerForm_srl :
    RegisterForm 0x4200707F#32 0x00005033#32 .srl (fun a b => BitVec.ofNat 32 (a.toNat / 2 ^ (b.toNat % 32))) :=
  registerForm_of_exec (f := fun a b => a >>> regShamt b)
    (decodesAs_of_opBase (by decide) (by decide) fun _ h hx => by rw [decodeOpBase, h, hx (by decide)]; rfl)
    (fun _ _ _ _ => rfl) fun a b => by rw [regShamt_eq, ushiftRight_eq_ofNat]

theorem registerForm_sra :
    RegisterForm 0x4200707F#32 0x40005033#32 .sra (fun a b => BitVec.ofInt 32 (a.toInt / 2 ^ (b.toNat % 32))) :=
  registerForm_of_exec (f := fun a b => a.sshiftRight (regShamt b))
    (decodesAs_of_opBase (by decide) (by decide) fun _ h hx => by rw [decodeOpBase, h, hx (by decide)]; rfl)
    (fun _ _ _ _ => rfl) fun a b => by rw [regShamt_eq, sshiftRight_eq_ofInt]

theorem registerForm_or : RegisterForm 0x0200707F#32 0x00006033#32 .or (fun a b => a ||| b) :=
  registerForm_of_exec (decodesAs_of_opBase (by decide) (by decide) fun _ h _ => by rw [decodeOpBase, h]; rfl)
    (fun _ _ _ _ => rfl) fun _ _ => rfl

theorem registerForm_and : RegisterForm 0x0200707F#32 0x00007033#32 .and (fun a b => a &&& b) :=
  registerForm_of_exec (decodesAs_of_opBase (by decide) (by decide) fun _ h _ => by rw [decodeOpBase, h]; rfl)
    (fun _ _ _ _ => rfl) fun _ _ => rfl

/-- Settles O13, row by row: each is the one `opReg` of the model under its own function. -/
theorem registerOperations : Obligations.RegisterOperations := by
  unfold Obligations.RegisterOperations
  exact ⟨registerForm_add, registerForm_sub, registerForm_sll, registerForm_slt, registerForm_sltu, registerForm_xor,
    registerForm_srl, registerForm_sra, registerForm_or, registerForm_and⟩

end Sys2Proof.Machine

/-! ## Multiply and divide

A row of Op with `ir[25] = 1` is one register write of a function of its operands too (rule R260), so each is settled by its
`funct3`, by that function, and by what the function is in integers. -/

namespace Sys2Proof.Machine

/-! ### The functions in integers -/

/-- The low word of a product is the same for every signedness of its factors (rule R261). -/
theorem mul_eq_ofInt (a b : Word) : a * b = BitVec.ofInt 32 (a.toInt * b.toInt) := by
  rw [BitVec.ofInt_mul, BitVec.ofInt_toInt, BitVec.ofInt_toInt]

/-- The high word of a product is its quotient by 2^32, rounded down (rules R262 to R264). -/
theorem highWord_eq_ofInt (product : Int) : highWord product = BitVec.ofInt 32 (product / 2 ^ 32) := by
  apply BitVec.eq_of_toNat_eq
  rw [highWord, BitVec.extractLsb'_toNat, BitVec.toNat_ofInt, BitVec.toNat_ofInt, Nat.shiftRight_eq_div_pow]
  omega

/-- The same for a product of unsigned factors (rule R264). -/
theorem highWord_natCast (product : Nat) : highWord product = BitVec.ofNat 32 (product / 2 ^ 32) := by
  rw [highWord_eq_ofInt, ← BitVec.ofInt_natCast]
  rfl

theorem eq_zero_iff_toNat (b : Word) : b = 0#32 ↔ b.toNat = 0 := BitVec.toNat_inj.symm

theorem eq_zero_iff_toInt (b : Word) : b = 0#32 ↔ b.toInt = 0 := BitVec.toInt_inj.symm

/-- The overflow pair in integers (rules R265, R267). -/
theorem divOverflows_iff (a b : Word) : divOverflows a b = true ↔ a.toInt = -2 ^ 31 ∧ b.toInt = -1 := by
  rw [divOverflows, Bool.and_eq_true, beq_iff_eq, beq_iff_eq, ← BitVec.toInt_inj, ← BitVec.toInt_inj]
  rfl

theorem divUnsigned_eq (a b : Word) :
    divUnsigned a b = if b.toNat = 0 then 0xFFFFFFFF#32 else BitVec.ofNat 32 (a.toNat / b.toNat) := by
  simp only [divUnsigned, eq_zero_iff_toNat]

theorem remUnsigned_eq (a b : Word) :
    remUnsigned a b = if b.toNat = 0 then a else BitVec.ofNat 32 (a.toNat % b.toNat) := by
  simp only [remUnsigned, eq_zero_iff_toNat]

theorem divSigned_eq (a b : Word) :
    divSigned a b = if b.toInt = 0 then 0xFFFFFFFF#32
      else if a.toInt = -2 ^ 31 ∧ b.toInt = -1 then a else BitVec.ofInt 32 (a.toInt.tdiv b.toInt) := by
  simp only [divSigned, eq_zero_iff_toInt, divOverflows_iff]

/-- What the quotient rounded toward zero leaves is the remainder with the sign of the dividend (rule R267). -/
theorem remSigned_eq (a b : Word) :
    remSigned a b = if b.toInt = 0 then a
      else if a.toInt = -2 ^ 31 ∧ b.toInt = -1 then 0#32 else BitVec.ofInt 32 (a.toInt.tmod b.toInt) := by
  simp only [remSigned, eq_zero_iff_toInt, divOverflows_iff, Int.tmod_def]

/-! ### Op with `ir[25] = 1` -/

theorem decode_of_opMul_selectors {w : Word} (hopcode : opcodeOf w = 0x33#7) (hmul : mulBitOf w = true) :
    decode w = decodeOpMul w := by
  simp [decode, hopcode, hmul]

/-- A row of the M extension whose instruction executes as `opReg f` leaves the result `f` has on the two registers. -/
theorem registerForm_of_opMul {pattern : Word} {make : RegIdx → RegIdx → RegIdx → Instr} {f result : Word → Word → Word}
    (hpattern : opcodeOf pattern = 0x33#7 ∧ mulBitOf pattern = true)
    (hdecode : ∀ w, funct3Of w = funct3Of pattern → decodeOpMul w = make (rdOf w) (rs1Of w) (rs2Of w))
    (hexec : ∀ rd rs1 rs2 s, exec (make rd rs1 rs2) s = opReg f rd rs1 rs2 s)
    (hresult : ∀ a b, f a b = result a b) : RegisterForm 0x0200707F#32 pattern make result := by
  refine registerForm_of_exec (fun w hw => ?_) hexec hresult
  obtain ⟨hopcode, hmul⟩ := hpattern
  have hop : opcodeOf w = opcodeOf pattern := field_of_masked hw (by decide)
  have hbit : mulBitOf w = mulBitOf pattern := bit_of_masked hw (by decide)
  exact (decode_of_opMul_selectors (hop.trans hopcode) (hbit.trans hmul)).trans
    (hdecode w (field_of_masked hw (by decide)))

theorem registerForm_mul :
    RegisterForm 0x0200707F#32 0x02000033#32 .mul (fun a b => BitVec.ofInt 32 (a.toInt * b.toInt)) :=
  registerForm_of_opMul (by decide) (fun _ h => by rw [decodeOpMul, h]; rfl) (fun _ _ _ _ => rfl) mul_eq_ofInt

theorem registerForm_mulh :
    RegisterForm 0x0200707F#32 0x02001033#32 .mulh (fun a b => BitVec.ofInt 32 (a.toInt * b.toInt / 2 ^ 32)) :=
  registerForm_of_opMul (by decide) (fun _ h => by rw [decodeOpMul, h]; rfl) (fun _ _ _ _ => rfl)
    fun _ _ => highWord_eq_ofInt _

theorem registerForm_mulhsu :
    RegisterForm 0x0200707F#32 0x02002033#32 .mulhsu (fun a b => BitVec.ofInt 32 (a.toInt * b.toNat / 2 ^ 32)) :=
  registerForm_of_opMul (by decide) (fun _ h => by rw [decodeOpMul, h]; rfl) (fun _ _ _ _ => rfl)
    fun _ _ => highWord_eq_ofInt _

theorem registerForm_mulhu :
    RegisterForm 0x0200707F#32 0x02003033#32 .mulhu (fun a b => BitVec.ofNat 32 (a.toNat * b.toNat / 2 ^ 32)) :=
  registerForm_of_opMul (by decide) (fun _ h => by rw [decodeOpMul, h]; rfl) (fun _ _ _ _ => rfl)
    fun a b => highWord_natCast (a.toNat * b.toNat)

theorem registerForm_div :
    RegisterForm 0x0200707F#32 0x02004033#32 .div
      (fun a b => if b.toInt = 0 then 0xFFFFFFFF#32
        else if a.toInt = -2 ^ 31 ∧ b.toInt = -1 then a else BitVec.ofInt 32 (a.toInt.tdiv b.toInt)) :=
  registerForm_of_opMul (by decide) (fun _ h => by rw [decodeOpMul, h]; rfl) (fun _ _ _ _ => rfl) divSigned_eq

theorem registerForm_divu :
    RegisterForm 0x0200707F#32 0x02005033#32 .divu
      (fun a b => if b.toNat = 0 then 0xFFFFFFFF#32 else BitVec.ofNat 32 (a.toNat / b.toNat)) :=
  registerForm_of_opMul (by decide) (fun _ h => by rw [decodeOpMul, h]; rfl) (fun _ _ _ _ => rfl) divUnsigned_eq

theorem registerForm_rem :
    RegisterForm 0x0200707F#32 0x02006033#32 .rem
      (fun a b => if b.toInt = 0 then a
        else if a.toInt = -2 ^ 31 ∧ b.toInt = -1 then 0#32 else BitVec.ofInt 32 (a.toInt.tmod b.toInt)) :=
  registerForm_of_opMul (by decide) (fun _ h => by rw [decodeOpMul, h]; rfl) (fun _ _ _ _ => rfl) remSigned_eq

theorem registerForm_remu :
    RegisterForm 0x0200707F#32 0x02007033#32 .remu
      (fun a b => if b.toNat = 0 then a else BitVec.ofNat 32 (a.toNat % b.toNat)) :=
  registerForm_of_opMul (by decide) (fun _ h => by rw [decodeOpMul, h]; rfl) (fun _ _ _ _ => rfl) remUnsigned_eq

/-- Settles O14, row by row: the high words are one function of three exact products. -/
theorem multiplications : Obligations.Multiplications := by
  unfold Obligations.Multiplications
  exact ⟨registerForm_mul, registerForm_mulh, registerForm_mulhsu, registerForm_mulhu⟩

/-- Settles O15, row by row. -/
theorem unsignedDivisions : Obligations.UnsignedDivisions := by
  unfold Obligations.UnsignedDivisions
  exact ⟨registerForm_divu, registerForm_remu⟩

/-- Settles O16, row by row: the fixed results are read off integers, and the remainder is the one of the quotient rounded
toward zero. -/
theorem signedDivisions : Obligations.SignedDivisions := by
  unfold Obligations.SignedDivisions
  exact ⟨registerForm_div, registerForm_rem⟩

end Sys2Proof.Machine

/-! ## Atomics inside the buffer

The nine AMOs are one operation under nine functions (48_atomics.md section 3), so each is settled by its function in
integers and one lemma for the operation; `LR.W` is a register write after the reservation is recorded. -/

namespace Sys2Proof.Machine

variable {s : State}

/-- Inside the buffer an atomic does its operation at `x[rs1]` (rule R310). -/
theorem atomic_inside {rs1 : RegIdx} {op : Word → State → Result} (h : InRam s (s.reg rs1)) :
    atomic rs1 op s = op (s.reg rs1) s :=
  if_pos ((inRam_iff s _).2 h)

/-! ### Load-reserved -/

theorem exec_lrW (rd rs1 : RegIdx) (aq rl : BitVec 1) (s : State) :
    exec (.lrW rd rs1 aq rl) s = atomic rs1 (fun a s => writeBack rd (s.read32 a) (s.reserve a)) s := rfl

/-- What `LR.W` records, in rule R311's arithmetic. -/
theorem reservationTag_eq (s : State) (a : Word) :
    s.reservationTag a = BitVec.ofNat 29 (a - s.params.memBase).toNat :=
  (BitVec.ofNat_toNat 29 (a - s.params.memBase)).symm

/-- Settles O36: the register write of `LR.W` happens in the state that holds the new reservation, with the word read
before it. -/
theorem loadReserved : Obligations.LoadReserved := by
  unfold Obligations.LoadReserved
  intro rd rs1 aq rl s h
  rw [exec_lrW, atomic_inside h, State.reserve, read32_eq, reservationTag_eq]
  exact completes_writeBack _ rd _

/-! ### The combining functions in integers -/

theorem ite_slt_eq_min (v old : Word) : (if v.slt old then v else old) = BitVec.ofInt 32 (min v.toInt old.toInt) := by
  simp only [min_def_lt, apply_ite (BitVec.ofInt 32), BitVec.ofInt_toInt, BitVec.slt_iff_toInt_lt]

theorem ite_slt_eq_max (v old : Word) : (if old.slt v then v else old) = BitVec.ofInt 32 (max v.toInt old.toInt) := by
  rw [max_comm]
  simp only [max_def_lt, apply_ite (BitVec.ofInt 32), BitVec.ofInt_toInt, BitVec.slt_iff_toInt_lt]

theorem ite_ult_eq_min (v old : Word) : (if v.ult old then v else old) = BitVec.ofNat 32 (min v.toNat old.toNat) := by
  simp only [min_def_lt, apply_ite (BitVec.ofNat 32), BitVec.ofNat_toNat, BitVec.setWidth_eq, BitVec.ult_iff_lt,
    BitVec.lt_def]

theorem ite_ult_eq_max (v old : Word) : (if old.ult v then v else old) = BitVec.ofNat 32 (max v.toNat old.toNat) := by
  rw [max_comm]
  simp only [max_def_lt, apply_ite (BitVec.ofNat 32), BitVec.ofNat_toNat, BitVec.setWidth_eq, BitVec.ult_iff_lt,
    BitVec.lt_def]

/-! ### The nine AMOs -/

/-- An instruction that executes as `amo f` leaves the result `f` has on `x[rs2]` and the old word. -/
theorem amoForm_of_exec {make : RegIdx → RegIdx → RegIdx → BitVec 1 → BitVec 1 → Instr} {f result : Word → Word → Word}
    (hexec : ∀ rd rs2 rs1 aq rl s, exec (make rd rs2 rs1 aq rl) s = amo f rd rs2 rs1 s)
    (hresult : ∀ v old, f v old = result v old) : AmoForm make result := by
  intro rd rs2 rs1 aq rl s h
  rw [hexec, amo, atomic_inside h, read32_eq, hresult]
  exact storesAndWrites_writeBack s (by decide) rfl (memStored_write32 s _ _)

theorem amoForm_amoswapW : AmoForm .amoswapW (fun v _ => v) :=
  amoForm_of_exec (f := fun v _ => v) (fun _ _ _ _ _ _ => rfl) fun _ _ => rfl

theorem amoForm_amoaddW : AmoForm .amoaddW (fun v old => BitVec.ofNat 32 (v.toNat + old.toNat)) :=
  amoForm_of_exec (fun _ _ _ _ _ _ => rfl) add_eq_ofNat

theorem amoForm_amoxorW : AmoForm .amoxorW (fun v old => v ^^^ old) :=
  amoForm_of_exec (fun _ _ _ _ _ _ => rfl) fun _ _ => rfl

theorem amoForm_amoandW : AmoForm .amoandW (fun v old => v &&& old) :=
  amoForm_of_exec (fun _ _ _ _ _ _ => rfl) fun _ _ => rfl

theorem amoForm_amoorW : AmoForm .amoorW (fun v old => v ||| old) :=
  amoForm_of_exec (fun _ _ _ _ _ _ => rfl) fun _ _ => rfl

theorem amoForm_amominW : AmoForm .amominW (fun v old => BitVec.ofInt 32 (min v.toInt old.toInt)) :=
  amoForm_of_exec (f := fun v old => if v.slt old then v else old) (fun _ _ _ _ _ _ => rfl) ite_slt_eq_min

theorem amoForm_amomaxW : AmoForm .amomaxW (fun v old => BitVec.ofInt 32 (max v.toInt old.toInt)) :=
  amoForm_of_exec (f := fun v old => if old.slt v then v else old) (fun _ _ _ _ _ _ => rfl) ite_slt_eq_max

theorem amoForm_amominuW : AmoForm .amominuW (fun v old => BitVec.ofNat 32 (min v.toNat old.toNat)) :=
  amoForm_of_exec (f := fun v old => if v.ult old then v else old) (fun _ _ _ _ _ _ => rfl) ite_ult_eq_min

theorem amoForm_amomaxuW : AmoForm .amomaxuW (fun v old => BitVec.ofNat 32 (max v.toNat old.toNat)) :=
  amoForm_of_exec (f := fun v old => if old.ult v then v else old) (fun _ _ _ _ _ _ => rfl) ite_ult_eq_max

/-- Settles O39, operation by operation: each is the one `amo` of the model under its own function. -/
theorem atomicOperations : Obligations.AtomicOperations := by
  unfold Obligations.AtomicOperations
  exact ⟨amoForm_amoswapW, amoForm_amoaddW, amoForm_amoxorW, amoForm_amoandW, amoForm_amoorW, amoForm_amominW,
    amoForm_amomaxW, amoForm_amominuW, amoForm_amomaxuW⟩

end Sys2Proof.Machine

/-! ## The timer of every step

TIMER is written in one place, the timer stage of a step (rule R341): no instruction writes it, and neither does a trap or
the interrupt. What its two halves are is then read off the 64-bit number. -/

namespace Sys2Proof.Machine

variable {s t : State}

/-! ### What keeps TIMER -/

theorem timer_of_endEarly {o : StepOutcome} (h : endEarly o s = .next t) : t.timer = s.timer := by
  rw [endEarly_eq] at h
  cases h
  cases s.params.cycleOnEarlyExit <;> rfl

theorem timer_of_returnFromTrap (h : returnFromTrap s = .next t) : t.timer = s.timer := by
  unfold returnFromTrap at h
  cases h
  rfl

/-- Whichever way an instruction ends, it keeps TIMER: its addresses are read only (rule R71) and no CSR number names
a half of it. -/
theorem ExecShape.timer {i : Instr} (h : ExecShape i s t) : t.timer = s.timer := by
  cases h with
  | commit rd v => rfl
  | csr rd csr v => exact congrArg₂ (· ++ ·) (State.csrWrite_timerh s csr v) (State.csrWrite_timerl s csr v)
  | store rd v a n m => rfl
  | reserve rd a v => rfl
  | setMatch rs2 rs1 imm lo hi => rfl
  | early o m z _ _ ht => exact (timer_of_endEarly ht).trans rfl
  | trap cause tval => rfl
  | mret _ _ ht => exact timer_of_returnFromTrap ht

theorem timer_of_exec {i : Instr} (h : exec i s = .next t) : t.timer = s.timer := (shape_of_exec h).timer

/-! ### What a step leaves in TIMER -/

/-- After the timer stage nothing of a step writes TIMER, whichever way the step ends. -/
theorem timer_of_stepWith {e : Word} (h : stepWith e s = .next t) : t.timer = (timerStage e s).timer := by
  rcases shape_of_stepWith h with ⟨-, rfl⟩ | ⟨-, -, rfl⟩ | ⟨-, x, -, rfl⟩ | ⟨-, -, -, hexec⟩
  · rfl
  · rfl
  · rfl
  · exact (timer_of_exec hexec).trans rfl

theorem timerNat_of_stepWith {e : Word} (h : stepWith e s = .next t) :
    timerNat t = (timerNat s + e.toNat) % 2 ^ 64 := by
  rw [← timer_toNat, timer_of_stepWith h, timer_toNat, timerNat_timerStage]

/-! ### The halves of an advanced TIMER -/

theorem timerl_toNat (s : State) : s.timerl.toNat = timerNat s % 2 ^ 32 := by
  unfold timerNat
  omega

theorem timerh_toNat (s : State) : s.timerh.toNat = timerNat s / 2 ^ 32 := by
  unfold timerNat
  omega

/-- The low half of a 64-bit sum is the sum of the low halves. -/
theorem timerl_of_advance {e : Word} (h : timerNat t = (timerNat s + e.toNat) % 2 ^ 64) :
    t.timerl.toNat = (s.timerl.toNat + e.toNat) % 2 ^ 32 := by
  rw [timerl_toNat, timerl_toNat, h]
  omega

/-- The high half of a 64-bit sum takes the carry out of the low half and nothing else of a 32-bit summand. -/
theorem timerh_of_advance {e : Word} (h : timerNat t = (timerNat s + e.toNat) % 2 ^ 64) :
    t.timerh = if s.timerl.toNat + e.toNat < 2 ^ 32 then s.timerh else s.timerh + 1#32 := by
  apply BitVec.eq_of_toNat_eq
  rw [timerh_toNat, h]
  unfold timerNat
  split
  case isTrue hfits => omega
  case isFalse hcarry =>
    rw [BitVec.toNat_add, BitVec.toNat_ofNat]
    omega

/-- Settles O43: only the timer stage writes TIMER, and the halves follow from the number it leaves. -/
theorem timerAdvances : Obligations.TimerAdvances := by
  unfold Obligations.TimerAdvances
  intro e s t h
  have hadvance := timerNat_of_stepWith h
  exact ⟨hadvance, timerl_of_advance hadvance, timerh_of_advance hadvance⟩

end Sys2Proof.Machine

/-! ## The decoder, row by row

The decoder looks at an opcode and then at selectors inside that opcode's group (rules R109 to R118). Each row of the table
is known by the arm its selectors reach (`DecodesAs`); what the decoder answers on any word at all is known by one walk
through its arms (`Selects`). -/

namespace Sys2Proof.Machine

/-! ### Opcodes and their groups -/

section
variable {w : Word}

theorem decode_jal (h : opcodeOf w = 0x6F#7) : decode w = .jal (rdOf w) (immJOf w) := by
  simp only [decode, h]

theorem decode_jalr (h : opcodeOf w = 0x67#7) : decode w = .jalr (rdOf w) (rs1Of w) (imm12Of w) := by
  simp only [decode, h]

theorem decode_of_load_opcode (h : opcodeOf w = 0x03#7) : decode w = decodeLoad w := by
  simp only [decode, h]

theorem decode_of_store_opcode (h : opcodeOf w = 0x23#7) : decode w = decodeStore w := by
  simp only [decode, h]

theorem decode_of_fence_opcode (h : opcodeOf w = 0x0F#7) : decode w = decodeFence w := by
  simp only [decode, h]

theorem decode_of_system_opcode (h : opcodeOf w = 0x73#7) : decode w = decodeSystem w := by
  simp only [decode, h]

theorem decode_of_atomic_opcode (h : opcodeOf w = 0x2F#7) : decode w = decodeAtomic w := by
  simp only [decode, h]

/-! ### The undefined selectors (rules R111, R112, R116, R118) -/

theorem decodeLoad_undefined (h : funct3Of w ∈ [3#3, 6#3, 7#3]) :
    decodeLoad w = .loadRsv (rdOf w) (rs1Of w) (imm12Of w) (funct3Of w) := by
  simp only [List.mem_cons, List.not_mem_nil, or_false] at h
  rcases h with h | h | h <;> simp [decodeLoad, h]

theorem decodeStore_undefined (h : funct3Of w ∉ [0#3, 1#3, 2#3]) :
    decodeStore w = .storeRsv (rs2Of w) (rs1Of w) (immSOf w) (funct3Of w) := by
  unfold decodeStore
  split <;> simp_all

theorem decodeFence_undefined (h : funct3Of w ∉ [0#3, 1#3]) : decodeFence w = .fenceOther (funct3Of w) := by
  unfold decodeFence
  split <;> simp_all

theorem decodeAtomic_undefined (h : funct5Of w ∉ definedFunct5) : decodeAtomic w = .amoRsv (rs1Of w) (funct5Of w) := by
  unfold decodeAtomic
  split <;> simp_all [definedFunct5]

end

/-! ### The illegal words -/

/-- The twelve major opcodes of rule R109. -/
def majorOpcodes : List (BitVec 7) :=
  [0x37#7, 0x17#7, 0x6F#7, 0x67#7, 0x63#7, 0x03#7, 0x23#7, 0x13#7, 0x33#7, 0x0F#7, 0x73#7, 0x2F#7]

section
variable {w : Word}

/-- The check of `illegal` terms, clause by clause (rule R121 (a), (b), (e), (f)). -/
theorem isIllegalWord_iff : isIllegalWord w = true ↔
    opcodeOf w ∉ majorOpcodes ∨ (opcodeOf w = 0x63#7 ∧ (funct3Of w = 2#3 ∨ funct3Of w = 3#3)) ∨
      (opcodeOf w = 0x73#7 ∧ funct3Of w = 4#3) ∨
      (opcodeOf w = 0x73#7 ∧ funct3Of w = 0#3 ∧ imm12Of w ∉ [0x000#12, 0x001#12, 0x105#12, 0x302#12]) := by
  unfold isIllegalWord majorOpcodes
  split
  case isTrue h => simp [h]
  case isFalse hbranch =>
    split
    case isTrue h => simp [h]
    case isFalse hsystem => simp [hbranch, hsystem]

theorem decode_of_minor_opcode (h : opcodeOf w ∉ majorOpcodes) : decode w = .illegal w := by
  unfold decode
  split <;> simp_all [majorOpcodes]

theorem decodeSystem_of_undefined_funct12 (h0 : funct3Of w = 0#3)
    (h : imm12Of w ∉ [0x000#12, 0x001#12, 0x105#12, 0x302#12]) : decodeSystem w = .illegal w := by
  simp only [decodeSystem, h0]
  split <;> simp_all

theorem decode_of_isIllegalWord (h : isIllegalWord w = true) : decode w = .illegal w := by
  rcases isIllegalWord_iff.1 h with h | ⟨hop, h | h⟩ | ⟨hop, h⟩ | ⟨hop, h0, h⟩
  · exact decode_of_minor_opcode h
  · rw [decode_of_branch_opcode hop, decodeBranch, h]; rfl
  · rw [decode_of_branch_opcode hop, decodeBranch, h]; rfl
  · rw [decode_of_system_opcode hop, decodeSystem, h]; rfl
  · exact (decode_of_system_opcode hop).trans (decodeSystem_of_undefined_funct12 h0 h)

end

/-! ### What a word's selectors say of the table -/

section
variable {w : Word} {r : Row} {o : BitVec 7} {f3 : BitVec 3}

/-- A row covers a word if both have the row's pattern under each part of the row's mask. -/
theorem covers_of_parts {m m' p p' : Word} (hmask : r.mask = m ||| m') (hpattern : r.pattern = p ||| p')
    (h : w &&& m = p) (h' : w &&& m' = p') : r.covers w = true := by
  rw [Row.covers, hmask, hpattern, BitVec.and_or_distrib_left, h, h', beq_self_eq_true]

theorem and_opcode_mask (h : opcodeOf w = o) : w &&& 0x0000007F#32 = put o 0 := by
  subst h
  ext i hi
  interval_cases i <;> simp [opcodeOf, getElem_put]

theorem and_opcode_funct3_mask (hop : opcodeOf w = o) (h : funct3Of w = f3) :
    w &&& 0x0000707F#32 = put f3 12 ||| put o 0 := by
  subst hop h
  ext i hi
  interval_cases i <;> simp [opcodeOf, funct3Of, getElem_put]

theorem and_funct12_mask {f12 : BitVec 12} (h : imm12Of w = f12) : w &&& 0xFFF00000#32 = put f12 20 := by
  subst h
  ext i hi
  interval_cases i <;> simp [imm12Of, getElem_put]

theorem and_funct5_mask {f5 : BitVec 5} (h : funct5Of w = f5) : w &&& 0xF8000000#32 = put f5 27 := by
  subst h
  ext i hi
  interval_cases i <;> simp [funct5Of, getElem_put]

theorem and_extraBit_mask {b : Bool} (h : extraBitOf w = b) : w &&& 0x40000000#32 = put (BitVec.ofBool b) 30 := by
  subst h
  ext i hi
  interval_cases i <;> simp [extraBitOf, getElem_put]

theorem and_extraBit_mulBit_mask {b c : Bool} (hx : extraBitOf w = b) (hm : mulBitOf w = c) :
    w &&& 0x42000000#32 = put (BitVec.ofBool b) 30 ||| put (BitVec.ofBool c) 25 := by
  subst hx hm
  ext i hi
  interval_cases i <;> simp [extraBitOf, mulBitOf, getElem_put]

theorem and_mulBit_mask {b : Bool} (h : mulBitOf w = b) : w &&& 0x02000000#32 = put (BitVec.ofBool b) 25 := by
  subst h
  ext i hi
  interval_cases i <;> simp [mulBitOf, getElem_put]

end

/-! ### What the decoder answers -/

/-- The decoder's answer is a term that stands for a word, and its row of the table covers the word decoded. -/
def Selects (w : Word) (i : Instr) : Prop := i.wf = true ∧ i.row.covers w = true

section
variable {w : Word} {i : Instr} {o : BitVec 7} {f3 : BitVec 3}

theorem selects_opcode (hop : opcodeOf w = o) (hwf : i.wf = true) (hmask : i.row.mask = 0x0000007F#32)
    (hpattern : i.row.pattern = put o 0) : Selects w i :=
  ⟨hwf, by rw [Row.covers, hmask, hpattern, and_opcode_mask hop, beq_self_eq_true]⟩

theorem selects_funct3 (hop : opcodeOf w = o) (hf3 : funct3Of w = f3) (hwf : i.wf = true)
    (hmask : i.row.mask = 0x0000707F#32) (hpattern : i.row.pattern = put f3 12 ||| put o 0) : Selects w i :=
  ⟨hwf, by rw [Row.covers, hmask, hpattern, and_opcode_funct3_mask hop hf3, beq_self_eq_true]⟩

/-- A row that looks at one more selector: what its mask adds to opcode and `funct3` meets what its pattern adds. -/
theorem selects_funct3_and {m p : Word} (hop : opcodeOf w = o) (hf3 : funct3Of w = f3) (hw : w &&& m = p)
    (hwf : i.wf = true) (hmask : i.row.mask = 0x0000707F#32 ||| m)
    (hpattern : i.row.pattern = (put f3 12 ||| put o 0) ||| p) : Selects w i :=
  ⟨hwf, covers_of_parts hmask hpattern (and_opcode_funct3_mask hop hf3) hw⟩

theorem selects_funct5 {f5 : BitVec 5} (hop : opcodeOf w = o) (hf5 : funct5Of w = f5) (hwf : i.wf = true)
    (hmask : i.row.mask = 0x0000007F#32 ||| 0xF8000000#32) (hpattern : i.row.pattern = put o 0 ||| put f5 27) :
    Selects w i :=
  ⟨hwf, covers_of_parts hmask hpattern (and_opcode_mask hop) (and_funct5_mask hf5)⟩

theorem selects_illegal (h : isIllegalWord w = true) : Selects w (.illegal w) := ⟨h, Laws.Row.illegal w h⟩

/-- The last arm of a match on all eight values of `funct3`. -/
theorem funct3_eq_seven {f : BitVec 3} : f ∉ [0#3, 1#3, 2#3, 3#3, 4#3, 5#3, 6#3] → f = 7#3 := by
  revert f
  decide

/-- Rules R105, R107: bit 0 of an offset is no bit of the word. -/
theorem immBOf_even (w : Word) : (!(immBOf w).getLsbD 0) = true := by
  rw [getLsbD_immBOf]; rfl

theorem immJOf_even (w : Word) : (!(immJOf w).getLsbD 0) = true := by
  rw [getLsbD_immJOf]; rfl

theorem decodeBranch_selects (hop : opcodeOf w = 0x63#7) : Selects w (decodeBranch w) := by
  unfold decodeBranch
  split
  case h_7 h0 h1 h4 h5 h6 h7 =>
    refine selects_illegal (isIllegalWord_iff.2 (.inr (.inl ⟨hop, ?_⟩)))
    generalize funct3Of w = f at *
    revert f
    decide
  all_goals exact selects_funct3 hop ‹_› (immBOf_even w) rfl rfl

theorem decodeLoad_selects (hop : opcodeOf w = 0x03#7) : Selects w (decodeLoad w) := by
  unfold decodeLoad
  split
  case h_6 h0 h1 h2 h4 h5 =>
    refine selects_opcode hop (decide_eq_true ?_) rfl rfl
    generalize funct3Of w = f at *
    revert f
    decide
  all_goals exact selects_funct3 hop ‹_› rfl rfl rfl

theorem decodeStore_selects (hop : opcodeOf w = 0x23#7) : Selects w (decodeStore w) := by
  unfold decodeStore
  split
  case h_4 h0 h1 h2 => exact selects_opcode hop (decide_eq_true (by simp_all)) rfl rfl
  all_goals exact selects_funct3 hop ‹_› rfl rfl rfl

theorem decodeOpImm_selects (hop : opcodeOf w = 0x13#7) : Selects w (decodeOpImm w) := by
  unfold decodeOpImm
  split
  case h_6 h5 =>
    cases hx : extraBitOf w
    · exact selects_funct3_and hop h5 (and_extraBit_mask hx) rfl rfl rfl
    · exact selects_funct3_and hop h5 (and_extraBit_mask hx) rfl rfl rfl
  case h_8 => exact selects_funct3 hop (funct3_eq_seven (by simp_all)) rfl rfl rfl
  all_goals exact selects_funct3 hop ‹_› rfl rfl rfl

theorem decodeOpBase_selects (hop : opcodeOf w = 0x33#7) (hmul : mulBitOf w = false) : Selects w (decodeOpBase w) := by
  unfold decodeOpBase
  split
  case h_1 h0 =>
    cases hx : extraBitOf w
    · exact selects_funct3_and hop h0 (and_extraBit_mulBit_mask hx hmul) rfl rfl rfl
    · exact selects_funct3_and hop h0 (and_extraBit_mulBit_mask hx hmul) rfl rfl rfl
  case h_6 h5 =>
    cases hx : extraBitOf w
    · exact selects_funct3_and hop h5 (and_extraBit_mulBit_mask hx hmul) rfl rfl rfl
    · exact selects_funct3_and hop h5 (and_extraBit_mulBit_mask hx hmul) rfl rfl rfl
  case h_8 => exact selects_funct3_and hop (funct3_eq_seven (by simp_all)) (and_mulBit_mask hmul) rfl rfl rfl
  all_goals exact selects_funct3_and hop ‹_› (and_mulBit_mask hmul) rfl rfl rfl

theorem decodeOpMul_selects (hop : opcodeOf w = 0x33#7) (hmul : mulBitOf w = true) : Selects w (decodeOpMul w) := by
  unfold decodeOpMul
  split
  case h_8 => exact selects_funct3_and hop (funct3_eq_seven (by simp_all)) (and_mulBit_mask hmul) rfl rfl rfl
  all_goals exact selects_funct3_and hop ‹_› (and_mulBit_mask hmul) rfl rfl rfl

theorem decodeFence_selects (hop : opcodeOf w = 0x0F#7) : Selects w (decodeFence w) := by
  unfold decodeFence
  split
  case h_3 h0 h1 => exact selects_opcode hop (decide_eq_true ⟨h0, h1⟩) rfl rfl
  all_goals exact selects_funct3 hop ‹_› rfl rfl rfl

theorem decodeSystem_selects (hop : opcodeOf w = 0x73#7) : Selects w (decodeSystem w) := by
  unfold decodeSystem
  split
  case h_1 h0 =>
    split
    case h_5 => exact selects_illegal (isIllegalWord_iff.2 (.inr (.inr (.inr ⟨hop, h0, by simp_all⟩))))
    all_goals exact selects_funct3_and hop h0 (and_funct12_mask ‹_›) rfl rfl rfl
  case h_8 h0 h1 h2 h3 h5 h6 h7 =>
    refine selects_illegal (isIllegalWord_iff.2 (.inr (.inr (.inl ⟨hop, ?_⟩))))
    generalize funct3Of w = f at *
    revert f
    decide
  all_goals exact selects_funct3 hop ‹_› rfl rfl rfl

theorem decodeAtomic_selects (hop : opcodeOf w = 0x2F#7) : Selects w (decodeAtomic w) := by
  unfold decodeAtomic
  split
  case h_12 => exact selects_opcode hop (decide_eq_true (by simp_all [definedFunct5])) rfl rfl
  all_goals exact selects_funct5 hop ‹_› rfl rfl rfl

/-- Every word: the decoder's answer is well formed and its row covers the word. -/
theorem decode_selects (w : Word) : Selects w (decode w) := by
  unfold decode
  split
  case h_1 => exact selects_opcode ‹_› rfl rfl rfl
  case h_2 => exact selects_opcode ‹_› rfl rfl rfl
  case h_3 => exact selects_opcode ‹_› (immJOf_even w) rfl rfl
  case h_4 => exact selects_opcode ‹_› rfl rfl rfl
  case h_5 h => exact decodeBranch_selects h
  case h_6 h => exact decodeLoad_selects h
  case h_7 h => exact decodeStore_selects h
  case h_8 h => exact decodeOpImm_selects h
  case h_9 h =>
    split
    case isTrue hmul => exact decodeOpMul_selects h hmul
    case isFalse hmul => exact decodeOpBase_selects h (Bool.eq_false_iff.2 hmul)
  case h_10 h => exact decodeFence_selects h
  case h_11 h => exact decodeSystem_selects h
  case h_12 h => exact decodeAtomic_selects h
  case h_13 => exact selects_illegal (isIllegalWord_iff.2 (.inl (by simp_all [majorOpcodes])))

end

/-- Settles O3: read off the walk through the decoder's arms. -/
theorem decodeGivesWellFormed : Obligations.DecodeGivesWellFormed := by
  unfold Obligations.DecodeGivesWellFormed
  exact fun w => (decode_selects w).1

end Sys2Proof.Machine

namespace Sys2Proof.Machine

/-! ### Decoding what was encoded -/

/-- A branch word: the offset comes back because it is even (rule R105). -/
theorem decode_encodeB {make : RegIdx → RegIdx → BitVec 13 → Instr} {f3 : BitVec 3}
    (hdecode : ∀ w, funct3Of w = f3 → decodeBranch w = make (rs1Of w) (rs2Of w) (immBOf w)) (rs1 rs2 : RegIdx)
    {offset : BitVec 13} (heven : (!offset.getLsbD 0) = true) :
    decode (encodeB offset rs2 rs1 f3 0x63#7) = make rs1 rs2 offset := by
  rw [decode_of_branch_opcode (encodeB_opcode _ _ _ _ _), hdecode _ (encodeB_funct3 _ _ _ _ _), encodeB_rs1, encodeB_rs2,
    encodeB_immB _ _ _ _ _ (by simpa using heven)]

/-- Settles O2, group by group: the opcode and the selectors of the encoder's word lead the decoder back to the constructor,
and the fields are those put in. Only an even offset is the offset its word holds, and only an undefined selector leads to a
reserved row. -/
theorem decodeOfEncodeIsIdentity : Obligations.DecodeOfEncodeIsIdentity := by
  unfold Obligations.DecodeOfEncodeIsIdentity
  intro i hwf
  cases i with
  | lui => simp [encode, decode_lui]
  | auipc => simp [encode, decode_auipc]
  | jal rd offset =>
    have heven : offset.getLsbD 0 = false := by simpa [Instr.wf] using hwf
    rw [encode, decode_jal (encodeJ_opcode _ _ _), encodeJ_rd, encodeJ_immJ _ _ _ heven]
  | jalr => simp [encode, decode_jalr]
  | beq rs1 rs2 | bne rs1 rs2 | blt rs1 rs2 | bge rs1 rs2 | bltu rs1 rs2 | bgeu rs1 rs2 =>
    exact decode_encodeB (fun w h => by rw [decodeBranch, h]; rfl) rs1 rs2 hwf
  | lb | lh | lw | lbu | lhu => simp [encode, decode_of_load_opcode, decodeLoad]
  | sb | sh | sw => simp [encode, decode_of_store_opcode, decodeStore]
  | addi | slti | sltiu | xori | ori | andi | slli | srli | srai => simp [encode, decode_of_opImm_opcode, decodeOpImm]
  | add | sub | sll | slt | sltu | xor | srl | sra | or | and => simp [encode, decode_of_opBase_selectors, decodeOpBase]
  | mul | mulh | mulhsu | mulhu | div | divu | rem | remu => simp [encode, decode_of_opMul_selectors, decodeOpMul]
  | fence | fenceI => simp [encode, decode_of_fence_opcode, decodeFence]
  | csrrw | csrrs | csrrc | csrrwi | csrrsi | csrrci | ecall | ebreak | wfi | mret =>
    simp [encode, decode_of_system_opcode, decodeSystem]
  | lrW | scW | amoswapW | amoaddW | amoxorW | amoandW | amoorW | amominW | amomaxW | amominuW | amomaxuW =>
    simp [encode, decode_of_atomic_opcode, decodeAtomic]
  | fenceOther funct3 =>
    have h : funct3 ∉ [0#3, 1#3] := by simpa [Instr.wf] using hwf
    simp [encode, decode_of_fence_opcode, decodeFence_undefined, h]
  | loadRsv rd rs1 imm funct3 =>
    have h : funct3 ∈ [3#3, 6#3, 7#3] := of_decide_eq_true hwf
    simp only [encode, decode_of_load_opcode, encodeI_opcode, encodeI_funct3, decodeLoad_undefined, h, encodeI_rd,
      encodeI_rs1, encodeI_imm12]
  | storeRsv rs2 rs1 imm funct3 =>
    have h : funct3 ∉ [0#3, 1#3, 2#3] := of_decide_eq_true hwf
    simp only [encode, decode_of_store_opcode, encodeS_opcode, encodeS_funct3, decodeStore_undefined, h, encodeS_rs1,
      encodeS_rs2, encodeS_immS, not_false_eq_true]
  | amoRsv rs1 funct5 =>
    have h : funct5 ∉ definedFunct5 := of_decide_eq_true hwf
    simp [encode, decode_of_atomic_opcode, decodeAtomic_undefined, h]
  | illegal word => exact decode_of_isIllegalWord hwf

end Sys2Proof.Machine

/-! ## The invariant of every step

The invariant speaks of the parameters, slot 0 of the register file and memory alone, so a step that writes none of them
keeps it, and of the ways an instruction ends only a store inside the buffer writes memory. -/

namespace Sys2Proof.Machine

variable {s t : State}

/-! ### What the invariant depends on -/

theorem Inv.of_same (hs : Inv s) (hparams : t.params = s.params) (hslot : t.regs[0] = s.regs[0])
    (hmem : t.mem = s.mem) : Inv t where
  paramsWf := hparams ▸ hs.paramsWf
  slotZero := hslot.trans hs.slotZero
  memWf := hmem ▸ hs.memWf
  inBuffer := by
    rw [hmem, hparams]
    exact hs.inBuffer

/-- The constraints on the parameters, as rule R12 and decision D4 write them. -/
theorem params_wf_iff (p : Config.Params) : p.wf = true ↔ p.memBase.toNat % 4 = 0 ∧ p.memLen.toNat % 4 = 0 ∧
    4 ≤ p.memLen.toNat ∧ p.memBase.toNat + p.memLen.toNat ≤ 2 ^ 32 := by
  unfold Config.Params.wf
  simp only [Bool.and_eq_true, beq_iff_eq, decide_eq_true_eq, and_assoc]

/-- Every byte of an access inside the buffer is a byte of the buffer: nothing wraps, since the buffer ends within the
address space (rules R12, R66). -/
theorem byteAddr_in_buffer (hp : s.params.wf = true) {a : Word} (ha : s.inRam a = true) {k : Nat} (hk : k < 4) :
    s.params.memBase.toNat ≤ byteAddr a k ∧
      byteAddr a k < s.params.memBase.toNat + s.params.memLen.toNat := by
  obtain ⟨-, -, -, hend⟩ := (params_wf_iff _).1 hp
  have hin : (a - s.params.memBase).toNat < s.params.memLen.toNat - 3 := (inRam_iff s a).1 ha
  have hbase := s.params.memBase.isLt
  have haddr := a.isLt
  unfold byteAddr
  rw [BitVec.toNat_sub] at hin
  rw [BitVec.toNat_add, BitVec.toNat_ofNat]
  omega

/-- A write inside the buffer keeps the canonical form and lists no byte outside the buffer. -/
theorem Inv.of_written (hs : Inv s) {m : Memory} {a : Word} {n : Nat} (ha : s.inRam a = true) (hn : n ≤ 4)
    (hm : WrittenAt s.mem m a n) : Inv { s with mem := m } where
  paramsWf := hs.paramsWf
  slotZero := hs.slotZero
  memWf := hm.wf hs.memWf
  inBuffer c hc := by
    rcases hm.listed c hc with hold | ⟨k, hk, haddr⟩
    · exact hs.inBuffer c hold
    · rw [haddr]
      exact byteAddr_in_buffer hs.paramsWf ha (by omega)

theorem Inv.setReg (hs : Inv s) (r : RegIdx) (v : Word) : Inv (s.setReg r v) :=
  hs.of_same rfl (State.setReg_slot_zero s r v) rfl

/-! ### Instructions and steps -/

theorem Inv.of_endEarly (hs : Inv s) {o : StepOutcome} (h : endEarly o s = .next t) : Inv t := by
  rw [endEarly_eq] at h
  cases h
  cases s.params.cycleOnEarlyExit <;> exact hs.of_same rfl rfl rfl

theorem Inv.of_returnFromTrap (hs : Inv s) (h : returnFromTrap s = .next t) : Inv t := by
  unfold returnFromTrap at h
  cases h
  exact hs.of_same rfl rfl rfl

/-- Whichever way an instruction ends, it keeps the invariant. -/
theorem ExecShape.inv {i : Instr} (h : ExecShape i s t) (hs : Inv s) : Inv t := by
  cases h with
  | commit rd v => exact (hs.setReg rd v).of_same rfl rfl rfl
  | csr rd csr v =>
    have hw : Inv (s.csrWrite csr v) :=
      hs.of_same (State.csrWrite_params s csr v) (by rw [State.csrWrite_regs]) (State.csrWrite_mem s csr v)
    exact (hw.setReg rd _).of_same rfl rfl rfl
  | store rd v a n m _ _ ha hn hm => exact ((hs.of_written ha hn.2 hm).setReg rd v).of_same rfl rfl rfl
  | reserve rd a v => exact (hs.setReg rd v).of_same rfl rfl rfl
  | setMatch => exact hs.of_same rfl rfl rfl
  | early o m z _ _ ht =>
    have hw : Inv { s with mstatus := m, sleep := z } := hs.of_same rfl rfl rfl
    exact hw.of_endEarly ht
  | trap => exact hs.of_same rfl rfl rfl
  | mret _ _ ht => exact hs.of_returnFromTrap ht

theorem Inv.of_stepWith (hs : Inv s) {e : Word} (h : stepWith e s = .next t) : Inv t := by
  rcases shape_of_stepWith h with ⟨-, rfl⟩ | ⟨-, -, rfl⟩ | ⟨-, x, -, rfl⟩ | ⟨-, -, -, hexec⟩
  · exact hs.of_same rfl rfl rfl
  · exact hs.of_same rfl rfl rfl
  · exact hs.of_same rfl rfl rfl
  · exact (shape_of_exec hexec).inv (hs.of_same rfl rfl rfl)

theorem Inv.drawElapsed (hs : Inv s) : Inv (drawElapsed s).2 := by
  rcases drawElapsed_cases s with ⟨e, rest, -, h⟩ | ⟨-, h⟩ <;> rw [h] <;> exact hs.of_same rfl rfl rfl

/-- Settles O54: taking `elapsed` from the host keeps the invariant, and so does the step with it. -/
theorem stepKeepsInvariant : Obligations.StepKeepsInvariant := by
  unfold Obligations.StepKeepsInvariant
  exact fun s t hs h => hs.drawElapsed.of_stepWith h

/-- Settles O53: the reset memory lists nothing. -/
theorem invariantAtReset : Obligations.InvariantAtReset := by
  unfold Obligations.InvariantAtReset
  exact ⟨by decide, by decide, ⟨.nil, fun _ h => absurd h (List.not_mem_nil)⟩, fun _ h => absurd h (List.not_mem_nil)⟩

end Sys2Proof.Machine

/-! ## The rows of the opcode table, and the words that match none

Every row's mask fixes the selectors of one arm of the decoder. A row of the first 68 is thus the row of whatever its words
decode to, so two of them share no word, and a row that covers a word is never before the word's own row (rule R146). -/

namespace Sys2Proof.Machine

/-! ### Rows with one `funct3`, one `funct12` or one `funct5` -/

/-- A row whose mask is the opcode and `funct3` decodes as its group's arm for the `funct3`. -/
theorem decodesAs_of_group {pattern : Word} {group f : Word → Instr}
    (hgroup : ∀ w, opcodeOf w = opcodeOf pattern → decode w = group w)
    (harm : ∀ w, funct3Of w = funct3Of pattern → group w = f w) : DecodesAs 0x0000707F#32 pattern f :=
  decodesAs_of_opcode_funct3 fun w hop hf3 => (hgroup w hop).trans (harm w hf3)

theorem decodesAs_of_funct12 {pattern : Word} {i : Instr} (hop : opcodeOf pattern = 0x73#7)
    (hf3 : funct3Of pattern = 0#3)
    (harm : ∀ w, funct3Of w = 0#3 → imm12Of w = imm12Of pattern → decodeSystem w = i) :
    DecodesAs 0xFFF0707F#32 pattern fun _ => i := by
  intro w hw
  have hop' : opcodeOf w = opcodeOf pattern := field_of_masked hw (by decide)
  have hf3' : funct3Of w = funct3Of pattern := field_of_masked hw (by decide)
  exact (decode_of_system_opcode (hop'.trans hop)).trans (harm w (hf3'.trans hf3) (field_of_masked hw (by decide)))

theorem decodesAs_of_funct5 {pattern : Word} {f : Word → Instr} (hop : opcodeOf pattern = 0x2F#7)
    (harm : ∀ w, funct5Of w = funct5Of pattern → decodeAtomic w = f w) : DecodesAs 0xF800007F#32 pattern f := by
  intro w hw
  have hop' : opcodeOf w = opcodeOf pattern := field_of_masked hw (by decide)
  exact (decode_of_atomic_opcode (hop'.trans hop)).trans (harm w (field_of_masked hw (by decide)))

/-! ### Loads, stores, fences, SYSTEM and atomic words -/

/-- The five loads: `funct3` and the fields are those of rule R111. -/
theorem decodesAs_loads :
    ∀ p ∈ [(0x0003#32, Instr.lb), (0x1003#32, .lh), (0x2003#32, .lw), (0x4003#32, .lbu), (0x5003#32, .lhu)],
      DecodesAs 0x707F#32 p.1 fun w => p.2 (rdOf w) (rs1Of w) (imm12Of w) := by
  simp only [List.forall_mem_cons, List.not_mem_nil, false_implies, implies_true, and_true]
  refine ⟨?_, ?_, ?_, ?_, ?_⟩
  all_goals exact decodesAs_of_group (fun _ => decode_of_load_opcode) fun _ h => by rw [decodeLoad, h]; rfl

theorem decodesAs_stores :
    ∀ p ∈ [(0x0023#32, Instr.sb), (0x1023#32, .sh), (0x2023#32, .sw)],
      DecodesAs 0x707F#32 p.1 fun w => p.2 (rs2Of w) (rs1Of w) (immSOf w) := by
  simp only [List.forall_mem_cons, List.not_mem_nil, false_implies, implies_true, and_true]
  refine ⟨?_, ?_, ?_⟩
  all_goals exact decodesAs_of_group (fun _ => decode_of_store_opcode) fun _ h => by rw [decodeStore, h]; rfl

theorem decodesAs_fence : DecodesAs 0x707F#32 0x000F#32 fun w => .fence (fmOf w) (predOf w) (succOf w) :=
  decodesAs_of_group (fun _ => decode_of_fence_opcode) fun _ h => by rw [decodeFence, h]; rfl

theorem decodesAs_fenceI : DecodesAs 0x707F#32 0x100F#32 fun _ => .fenceI :=
  decodesAs_of_group (fun _ => decode_of_fence_opcode) fun _ h => by rw [decodeFence, h]; rfl

theorem decodesAs_csr :
    ∀ p ∈ [(0x1073#32, Instr.csrrw), (0x2073#32, .csrrs), (0x3073#32, .csrrc), (0x5073#32, .csrrwi),
        (0x6073#32, .csrrsi), (0x7073#32, .csrrci)],
      DecodesAs 0x707F#32 p.1 fun w => p.2 (rdOf w) (imm12Of w) (rs1Of w) := by
  simp only [List.forall_mem_cons, List.not_mem_nil, false_implies, implies_true, and_true]
  refine ⟨?_, ?_, ?_, ?_, ?_, ?_⟩
  all_goals exact decodesAs_of_group (fun _ => decode_of_system_opcode) fun _ h => by rw [decodeSystem, h]; rfl

theorem decodesAs_system :
    ∀ p ∈ [(0x00000073#32, Instr.ecall), (0x00100073#32, .ebreak), (0x10500073#32, .wfi), (0x30200073#32, .mret)],
      DecodesAs 0xFFF0707F#32 p.1 fun _ => p.2 := by
  simp only [List.forall_mem_cons, List.not_mem_nil, false_implies, implies_true, and_true]
  refine ⟨?_, ?_, ?_, ?_⟩
  all_goals exact decodesAs_of_funct12 (by decide) (by decide) fun _ h h' => by simp only [decodeSystem, h, h']; rfl

theorem decodesAs_lrW :
    DecodesAs 0xF800007F#32 0x1000002F#32 fun w => .lrW (rdOf w) (rs1Of w) (aqOf w) (rlOf w) :=
  decodesAs_of_funct5 (by decide) fun _ h => by rw [decodeAtomic, h]; rfl

theorem decodesAs_writingAtomics :
    ∀ p ∈ [(0x1800002F#32, Instr.scW), (0x0800002F#32, .amoswapW), (0x0000002F#32, .amoaddW), (0x2000002F#32, .amoxorW),
        (0x6000002F#32, .amoandW), (0x4000002F#32, .amoorW), (0x8000002F#32, .amominW), (0xA000002F#32, .amomaxW),
        (0xC000002F#32, .amominuW), (0xE000002F#32, .amomaxuW)],
      DecodesAs 0xF800007F#32 p.1 fun w => p.2 (rdOf w) (rs2Of w) (rs1Of w) (aqOf w) (rlOf w) := by
  simp only [List.forall_mem_cons, List.not_mem_nil, false_implies, implies_true, and_true]
  refine ⟨?_, ?_, ?_, ?_, ?_, ?_, ?_, ?_, ?_, ?_⟩
  all_goals exact decodesAs_of_funct5 (by decide) fun _ h => by rw [decodeAtomic, h]; rfl

/-- Settles O6: the defined selectors are rows of the table, the undefined ones the last arms of their groups. -/
theorem decodeOperandFields : Obligations.DecodeOperandFields := by
  unfold Obligations.DecodeOperandFields
  refine ⟨decodesAs_loads, ?loadRsv, decodesAs_stores, ?storeRsv, decodesAs_fence, decodesAs_fenceI, ?fenceOther,
    decodesAs_csr, decodesAs_system, decodesAs_lrW, decodesAs_writingAtomics, ?amoRsv⟩
  case loadRsv =>
    rintro f hf w hop rfl
    exact (decode_of_load_opcode hop).trans (decodeLoad_undefined hf)
  case storeRsv =>
    rintro f hf w hop rfl
    refine (decode_of_store_opcode hop).trans (decodeStore_undefined ?_)
    revert hf
    generalize funct3Of w = f
    revert f
    decide
  case fenceOther =>
    rintro f hf w hop rfl
    exact (decode_of_fence_opcode hop).trans (decodeFence_undefined hf)
  case amoRsv =>
    rintro f hf w hop rfl
    exact (decode_of_atomic_opcode hop).trans (decodeAtomic_undefined hf)

/-! ### The illegal words -/

/-- Settles O7: a word that decodes to `illegal` is well formed as such, and trap entry is the whole of its meaning. -/
theorem illegalWordsTrap : Obligations.IllegalWordsTrap := by
  unfold Obligations.IllegalWordsTrap
  refine ⟨fun w => ⟨fun h => ?_, fun h => decode_of_isIllegalWord (isIllegalWord_iff.2 h)⟩, fun w s => ?_⟩
  · have hwf := (decode_selects w).1
    rw [h] at hwf
    exact isIllegalWord_iff.1 hwf
  · exact traps_raise s .illegalInstruction s.pc

/-! ### Immediate shifts -/

/-- A shift row decodes as Op-Immediate's arm for its `funct3`, and for `ir[30]` where its mask has that bit. -/
theorem decodesAs_of_opImm {mask pattern : Word} {f : Word → Instr} (hmask : mask &&& 0x0000707F#32 = 0x0000707F#32)
    (hop : opcodeOf pattern = 0x13#7)
    (harm : ∀ w, funct3Of w = funct3Of pattern → (extraBitOf mask = true → extraBitOf w = extraBitOf pattern) →
      decodeOpImm w = f w) : DecodesAs mask pattern f := by
  intro w hw
  have hop' : opcodeOf w = opcodeOf pattern := field_of_masked hw (field_of_masked hmask (by decide))
  have hf3 : funct3Of w = funct3Of pattern := field_of_masked hw (field_of_masked hmask (by decide))
  exact (decode_of_opImm_opcode (hop'.trans hop)).trans (harm w hf3 (bit_of_masked hw))

/-- A row whose instruction executes as `shiftImm f` leaves the result `f` has on the register and the amount. -/
theorem shiftForm_of_exec {mask pattern : Word} {make : RegIdx → RegIdx → BitVec 5 → Instr} {f result : Word → Nat → Word}
    (hdecode : DecodesAs mask pattern fun w => make (rdOf w) (rs1Of w) (rs2Of w))
    (hexec : ∀ rd rs1 shamt s, exec (make rd rs1 shamt) s = shiftImm f rd rs1 shamt s)
    (hresult : ∀ a n, f a n = result a n) : ShiftForm mask pattern make result := by
  refine ⟨hdecode, fun rd rs1 shamt s => ?_⟩
  rw [hexec, shiftImm, hresult]
  exact completes_writeBack s rd _

theorem shiftForm_slli : ShiftForm 0x0000707F#32 0x00001013#32 .slli (fun a n => BitVec.ofNat 32 (a.toNat * 2 ^ n)) :=
  shiftForm_of_exec (decodesAs_of_opImm (by decide) (by decide) fun _ h _ => by rw [decodeOpImm, h]; rfl)
    (fun _ _ _ _ => rfl) shiftLeft_eq_ofNat

theorem shiftForm_srli : ShiftForm 0x4000707F#32 0x00005013#32 .srli (fun a n => BitVec.ofNat 32 (a.toNat / 2 ^ n)) :=
  shiftForm_of_exec
    (decodesAs_of_opImm (by decide) (by decide) fun _ h hx => by rw [decodeOpImm, h, hx (by decide)]; rfl)
    (fun _ _ _ _ => rfl) ushiftRight_eq_ofNat

theorem shiftForm_srai : ShiftForm 0x4000707F#32 0x40005013#32 .srai (fun a n => BitVec.ofInt 32 (a.toInt / 2 ^ n)) :=
  shiftForm_of_exec
    (decodesAs_of_opImm (by decide) (by decide) fun _ h hx => by rw [decodeOpImm, h, hx (by decide)]; rfl)
    (fun _ _ _ _ => rfl) sshiftRight_eq_ofInt

/-- Settles O12, row by row: each is the one `shiftImm` of the model under its own function. -/
theorem immediateShifts : Obligations.ImmediateShifts := by
  unfold Obligations.ImmediateShifts
  exact ⟨shiftForm_slli, shiftForm_srli, shiftForm_srai⟩

/-! ### Jumps -/

theorem decodesAs_jal : DecodesAs 0x0000007F#32 0x0000006F#32 fun w => .jal (rdOf w) (immJOf w) :=
  decodesAs_of_opcode fun _ => decode_jal

theorem decodesAs_jalr : DecodesAs 0x0000007F#32 0x00000067#32 fun w => .jalr (rdOf w) (rs1Of w) (imm12Of w) :=
  decodesAs_of_opcode fun _ => decode_jalr

/-- Clearing bit 0 rounds down to an even number, in integers too (rule R171). -/
theorem ofInt_clear_bit_zero (n : Int) : BitVec.ofInt 32 n &&& 0xFFFFFFFE#32 = BitVec.ofInt 32 (n / 2 * 2) := by
  have hshift (x : Word) : x &&& 0xFFFFFFFE#32 = (x >>> 1) <<< 1 := by
    ext i hi
    interval_cases i <;> simp
  apply BitVec.eq_of_toNat_eq
  rw [hshift, BitVec.toNat_shiftLeft, BitVec.toNat_ushiftRight, BitVec.toNat_ofInt, BitVec.toNat_ofInt, Nat.shiftLeft_eq,
    Nat.shiftRight_eq_div_pow]
  omega

theorem jalrTarget_eq (s : State) (rs1 : RegIdx) (imm : BitVec 12) :
    s.jalrTarget rs1 imm = BitVec.ofInt 32 (((s.reg rs1).toInt + imm.toInt) / 2 * 2) := by
  rw [State.jalrTarget, effAddr_eq, displaced, ofInt_clear_bit_zero]

theorem add_immJump (a : Word) (offset : BitVec 21) : a + immJump offset = BitVec.ofInt 32 (a.toInt + offset.toInt) :=
  add_signExtend a offset (by decide)

theorem exec_jal (rd : RegIdx) (offset : BitVec 21) (s : State) :
    exec (.jal rd offset) s = jumpTo (s.pc + immJump offset) (s.setReg rd (s.pc + 4#32)) := rfl

theorem exec_jalr (rd rs1 : RegIdx) (imm : BitVec 12) (s : State) :
    exec (.jalr rd rs1 imm) s = jumpTo (s.jalrTarget rs1 imm) (s.setReg rd (s.pc + 4#32)) := rfl

/-- Settles O9: both are one jump after one register write, and the target is computed before the write. -/
theorem jumpsLinkAndGo : Obligations.JumpsLinkAndGo := by
  unfold Obligations.JumpsLinkAndGo
  refine ⟨decodesAs_jal, decodesAs_jalr, fun rd offset s => ?_, fun rd rs1 imm s => ?_⟩
  · rw [exec_jal, add_immJump]
    exact commits_jumpTo s rd _ _
  · rw [exec_jalr, jalrTarget_eq]
    exact commits_jumpTo s rd _ _

end Sys2Proof.Machine

namespace Sys2Proof.Machine

/-! ### The table in its order -/

/-- Every row of a stretch of the table that starts at number `n`: what a word it covers decodes to has a row number in
relation `R` to the row's own. -/
def CoversImply (R : Nat → Nat → Prop) (rows : List Row) (n : Nat) : Prop :=
  ∀ (k : Nat) (hk : k < rows.length) (w : Word), rows[k].covers w = true → R (decode w).rowNumber (n + k)

section
variable {R : Nat → Nat → Prop} {r : Row} {rows rows' : List Row} {n : Nat}

theorem CoversImply.nil : CoversImply R [] n := fun k hk => absurd hk (Nat.not_lt_zero k)

theorem CoversImply.cons (h : ∀ w, r.covers w = true → R (decode w).rowNumber n) (hrows : CoversImply R rows (n + 1)) :
    CoversImply R (r :: rows) n := by
  intro k hk w hw
  cases k with
  | zero => exact h w hw
  | succ k =>
    rw [show n + (k + 1) = n + 1 + k by omega]
    exact hrows k (by simpa using hk) w hw

theorem CoversImply.append (h : CoversImply R rows n) (h' : CoversImply R rows' (n + rows.length)) :
    CoversImply R (rows ++ rows') n := by
  intro k hk w hw
  rw [List.getElem_append] at hw
  split at hw
  case isTrue hlt => exact h k hlt w hw
  case isFalse hge =>
    have := h' (k - rows.length) (by rw [List.length_append] at hk; omega) w hw
    rwa [show n + rows.length + (k - rows.length) = n + k by omega] at this

theorem CoversImply.mono {R' : Nat → Nat → Prop} (h : CoversImply R rows n) (hR : ∀ a b, R a b → R' a b) :
    CoversImply R' rows n := fun k hk w hw => hR _ _ (h k hk w hw)

/-- A row that decodes as one instruction, whose own row it is. -/
theorem rowNumber_of_decodesAs {f : Word → Instr} (h : DecodesAs r.mask r.pattern f) (hn : ∀ w, (f w).rowNumber = n) :
    ∀ w, r.covers w = true → (decode w).rowNumber = n :=
  fun w hw => by rw [h w (eq_of_beq hw), hn]

end

theorem upperJumpBranch_rows : CoversImply Eq tableUpperJumpBranch 0 :=
  .cons (rowNumber_of_decodesAs (decodesAs_of_opcode fun _ => decode_lui) fun _ => rfl) <|
  .cons (rowNumber_of_decodesAs (decodesAs_of_opcode fun _ => decode_auipc) fun _ => rfl) <|
  .cons (rowNumber_of_decodesAs decodesAs_jal fun _ => rfl) <|
  .cons (rowNumber_of_decodesAs decodesAs_jalr fun _ => rfl) <|
  .cons (rowNumber_of_decodesAs branchForm_beq.1 fun _ => rfl) <|
  .cons (rowNumber_of_decodesAs branchForm_bne.1 fun _ => rfl) <|
  .cons (rowNumber_of_decodesAs branchForm_blt.1 fun _ => rfl) <|
  .cons (rowNumber_of_decodesAs branchForm_bge.1 fun _ => rfl) <|
  .cons (rowNumber_of_decodesAs branchForm_bltu.1 fun _ => rfl) <|
  .cons (rowNumber_of_decodesAs branchForm_bgeu.1 fun _ => rfl) .nil

theorem loadStore_rows : CoversImply Eq tableLoadStore 10 :=
  .cons (rowNumber_of_decodesAs (decodesAs_loads (_, .lb) (by simp)) fun _ => rfl) <|
  .cons (rowNumber_of_decodesAs (decodesAs_loads (_, .lh) (by simp)) fun _ => rfl) <|
  .cons (rowNumber_of_decodesAs (decodesAs_loads (_, .lw) (by simp)) fun _ => rfl) <|
  .cons (rowNumber_of_decodesAs (decodesAs_loads (_, .lbu) (by simp)) fun _ => rfl) <|
  .cons (rowNumber_of_decodesAs (decodesAs_loads (_, .lhu) (by simp)) fun _ => rfl) <|
  .cons (rowNumber_of_decodesAs (decodesAs_stores (_, .sb) (by simp)) fun _ => rfl) <|
  .cons (rowNumber_of_decodesAs (decodesAs_stores (_, .sh) (by simp)) fun _ => rfl) <|
  .cons (rowNumber_of_decodesAs (decodesAs_stores (_, .sw) (by simp)) fun _ => rfl) .nil

theorem opImm_rows : CoversImply Eq tableOpImm 18 :=
  .cons (rowNumber_of_decodesAs immediateForm_addi.1 fun _ => rfl) <|
  .cons (rowNumber_of_decodesAs immediateForm_slti.1 fun _ => rfl) <|
  .cons (rowNumber_of_decodesAs immediateForm_sltiu.1 fun _ => rfl) <|
  .cons (rowNumber_of_decodesAs immediateForm_xori.1 fun _ => rfl) <|
  .cons (rowNumber_of_decodesAs immediateForm_ori.1 fun _ => rfl) <|
  .cons (rowNumber_of_decodesAs immediateForm_andi.1 fun _ => rfl) <|
  .cons (rowNumber_of_decodesAs shiftForm_slli.1 fun _ => rfl) <|
  .cons (rowNumber_of_decodesAs shiftForm_srli.1 fun _ => rfl) <|
  .cons (rowNumber_of_decodesAs shiftForm_srai.1 fun _ => rfl) .nil

theorem op_rows : CoversImply Eq tableOp 27 :=
  .cons (rowNumber_of_decodesAs registerForm_add.1 fun _ => rfl) <|
  .cons (rowNumber_of_decodesAs registerForm_sub.1 fun _ => rfl) <|
  .cons (rowNumber_of_decodesAs registerForm_sll.1 fun _ => rfl) <|
  .cons (rowNumber_of_decodesAs registerForm_slt.1 fun _ => rfl) <|
  .cons (rowNumber_of_decodesAs registerForm_sltu.1 fun _ => rfl) <|
  .cons (rowNumber_of_decodesAs registerForm_xor.1 fun _ => rfl) <|
  .cons (rowNumber_of_decodesAs registerForm_srl.1 fun _ => rfl) <|
  .cons (rowNumber_of_decodesAs registerForm_sra.1 fun _ => rfl) <|
  .cons (rowNumber_of_decodesAs registerForm_or.1 fun _ => rfl) <|
  .cons (rowNumber_of_decodesAs registerForm_and.1 fun _ => rfl) .nil

theorem mul_rows : CoversImply Eq tableMul 37 :=
  .cons (rowNumber_of_decodesAs registerForm_mul.1 fun _ => rfl) <|
  .cons (rowNumber_of_decodesAs registerForm_mulh.1 fun _ => rfl) <|
  .cons (rowNumber_of_decodesAs registerForm_mulhsu.1 fun _ => rfl) <|
  .cons (rowNumber_of_decodesAs registerForm_mulhu.1 fun _ => rfl) <|
  .cons (rowNumber_of_decodesAs registerForm_div.1 fun _ => rfl) <|
  .cons (rowNumber_of_decodesAs registerForm_divu.1 fun _ => rfl) <|
  .cons (rowNumber_of_decodesAs registerForm_rem.1 fun _ => rfl) <|
  .cons (rowNumber_of_decodesAs registerForm_remu.1 fun _ => rfl) .nil

theorem fenceSystem_rows : CoversImply Eq tableFenceSystem 45 :=
  .cons (rowNumber_of_decodesAs decodesAs_fence fun _ => rfl) <|
  .cons (rowNumber_of_decodesAs decodesAs_fenceI fun _ => rfl) <|
  .cons (rowNumber_of_decodesAs (decodesAs_csr (_, .csrrw) (by simp)) fun _ => rfl) <|
  .cons (rowNumber_of_decodesAs (decodesAs_csr (_, .csrrs) (by simp)) fun _ => rfl) <|
  .cons (rowNumber_of_decodesAs (decodesAs_csr (_, .csrrc) (by simp)) fun _ => rfl) <|
  .cons (rowNumber_of_decodesAs (decodesAs_csr (_, .csrrwi) (by simp)) fun _ => rfl) <|
  .cons (rowNumber_of_decodesAs (decodesAs_csr (_, .csrrsi) (by simp)) fun _ => rfl) <|
  .cons (rowNumber_of_decodesAs (decodesAs_csr (_, .csrrci) (by simp)) fun _ => rfl) <|
  .cons (rowNumber_of_decodesAs (decodesAs_system (_, .ecall) (by simp)) fun _ => rfl) <|
  .cons (rowNumber_of_decodesAs (decodesAs_system (_, .ebreak) (by simp)) fun _ => rfl) <|
  .cons (rowNumber_of_decodesAs (decodesAs_system (_, .wfi) (by simp)) fun _ => rfl) <|
  .cons (rowNumber_of_decodesAs (decodesAs_system (_, .mret) (by simp)) fun _ => rfl) .nil

theorem atomic_rows : CoversImply Eq tableAtomic 57 :=
  .cons (rowNumber_of_decodesAs decodesAs_lrW fun _ => rfl) <|
  .cons (rowNumber_of_decodesAs (decodesAs_writingAtomics (_, .scW) (by simp)) fun _ => rfl) <|
  .cons (rowNumber_of_decodesAs (decodesAs_writingAtomics (_, .amoswapW) (by simp)) fun _ => rfl) <|
  .cons (rowNumber_of_decodesAs (decodesAs_writingAtomics (_, .amoaddW) (by simp)) fun _ => rfl) <|
  .cons (rowNumber_of_decodesAs (decodesAs_writingAtomics (_, .amoxorW) (by simp)) fun _ => rfl) <|
  .cons (rowNumber_of_decodesAs (decodesAs_writingAtomics (_, .amoandW) (by simp)) fun _ => rfl) <|
  .cons (rowNumber_of_decodesAs (decodesAs_writingAtomics (_, .amoorW) (by simp)) fun _ => rfl) <|
  .cons (rowNumber_of_decodesAs (decodesAs_writingAtomics (_, .amominW) (by simp)) fun _ => rfl) <|
  .cons (rowNumber_of_decodesAs (decodesAs_writingAtomics (_, .amomaxW) (by simp)) fun _ => rfl) <|
  .cons (rowNumber_of_decodesAs (decodesAs_writingAtomics (_, .amominuW) (by simp)) fun _ => rfl) <|
  .cons (rowNumber_of_decodesAs (decodesAs_writingAtomics (_, .amomaxuW) (by simp)) fun _ => rfl) .nil

/-- The first 68 rows, one for each instruction that is no catch-all. -/
def instructionRows : List Row :=
  tableUpperJumpBranch ++ tableLoadStore ++ tableOpImm ++ tableOp ++ tableMul ++ tableFenceSystem ++ tableAtomic

theorem take_opcodeTable : opcodeTable.take 68 = instructionRows := rfl

theorem instruction_rows : CoversImply Eq instructionRows 0 :=
  .append (.append (.append (.append (.append (.append upperJumpBranch_rows loadStore_rows) opImm_rows) op_rows) mul_rows)
    fenceSystem_rows) atomic_rows

/-! ### The catch-all rows -/

theorem opcode_of_covers {r : Row} {w : Word} (hmask : r.mask = 0x0000007F#32) (h : r.covers w = true) :
    opcodeOf w = opcodeOf r.pattern := by
  have hw : w &&& 0x0000007F#32 = r.pattern := hmask ▸ eq_of_beq h
  exact field_of_masked hw (by decide)

section
variable (w : Word)

theorem decodeFence_rowNumber_le : (decodeFence w).rowNumber ≤ 68 := by
  unfold decodeFence
  split <;> simp [Instr.rowNumber]

theorem decodeLoad_rowNumber_le : (decodeLoad w).rowNumber ≤ 69 := by
  unfold decodeLoad
  split <;> simp [Instr.rowNumber]

theorem decodeStore_rowNumber_le : (decodeStore w).rowNumber ≤ 70 := by
  unfold decodeStore
  split <;> simp [Instr.rowNumber]

theorem decodeAtomic_rowNumber_le : (decodeAtomic w).rowNumber ≤ 71 := by
  unfold decodeAtomic
  split <;> simp [Instr.rowNumber]

theorem rowNumber_le (i : Instr) : i.rowNumber ≤ 72 := by
  cases i <;> simp [Instr.rowNumber]

end

/-- A word that a catch-all row covers decodes inside its opcode's group, none of whose rows stands after the catch-all. -/
theorem catchAll_rows : CoversImply (· ≤ ·) tableCatchAll 68 :=
  .cons (fun w h => by rw [decode_of_fence_opcode (opcode_of_covers rfl h)]; exact decodeFence_rowNumber_le w) <|
  .cons (fun w h => by rw [decode_of_load_opcode (opcode_of_covers rfl h)]; exact decodeLoad_rowNumber_le w) <|
  .cons (fun w h => by rw [decode_of_store_opcode (opcode_of_covers rfl h)]; exact decodeStore_rowNumber_le w) <|
  .cons (fun w h => by rw [decode_of_atomic_opcode (opcode_of_covers rfl h)]; exact decodeAtomic_rowNumber_le w) <|
  .cons (fun w _ => rowNumber_le (decode w)) .nil

theorem opcodeTable_rows : CoversImply (· ≤ ·) opcodeTable 0 :=
  .append (instruction_rows.mono fun _ _ h => h.le) catchAll_rows

/-- Settles O4: no row before a word's own can cover it, since a covering row is not before the word's own; and a word two
of the first 68 rows cover would have both numbers. -/
theorem decodeSelectsFirstMatchingRow : Obligations.DecodeSelectsFirstMatchingRow := by
  unfold Obligations.DecodeSelectsFirstMatchingRow
  refine ⟨fun w => ⟨(decode_selects w).2, fun r hr => ?_⟩, ?_⟩
  · obtain ⟨k, hk, rfl⟩ := List.mem_take_iff_getElem.1 hr
    refine Bool.eq_false_iff.2 fun hcov => ?_
    have := opcodeTable_rows k (by omega) w hcov
    omega
  · rw [take_opcodeTable, List.pairwise_iff_getElem]
    intro i j hi hj hij w ⟨hcov, hcov'⟩
    have h := instruction_rows i hi w hcov
    have h' := instruction_rows j hj w hcov'
    omega

/-! ### Bits the decoder does not examine -/

/-- Words that agree under a mask agree in every field inside it. -/
theorem field_eq_of_masked_eq {w w' mask : Word} {lo len : Nat} (h : w &&& mask = w' &&& mask)
    (hmask : mask.extractLsb' lo len = BitVec.allOnes len) : w.extractLsb' lo len = w'.extractLsb' lo len :=
  (field_of_masked h hmask).trans (field_of_masked rfl hmask).symm

/-- Settles O41: outside `aq`, `rl` and `funct3` the words have the same fields, and no atomic's meaning has an argument
for these three. -/
theorem orderingBitsIgnored : Obligations.OrderingBitsIgnored := by
  unfold Obligations.OrderingBitsIgnored
  intro w w' s hop h
  have hop' : opcodeOf w = opcodeOf w' := field_eq_of_masked_eq h (by decide)
  have hrd : rdOf w = rdOf w' := field_eq_of_masked_eq h (by decide)
  have hrs1 : rs1Of w = rs1Of w' := field_eq_of_masked_eq h (by decide)
  have hrs2 : rs2Of w = rs2Of w' := field_eq_of_masked_eq h (by decide)
  have hf5 : funct5Of w = funct5Of w' := field_eq_of_masked_eq h (by decide)
  rw [decode_of_atomic_opcode hop, decode_of_atomic_opcode (hop'.symm.trans hop)]
  unfold decodeAtomic
  rw [hf5, hrd, hrs1, hrs2]
  split <;> rfl

/-- Settles O1: the decoder evaluated on each word. -/
theorem decodeKnownWords : Obligations.DecodeKnownWords := by
  unfold Obligations.DecodeKnownWords
  decide

/-! ### Fences -/

/-- Settles O27: each of the three meanings of the fence opcode is the end of an instruction and nothing more. -/
theorem fencesOnlyAdvance : Obligations.FencesOnlyAdvance := by
  unfold Obligations.FencesOnlyAdvance
  refine ⟨fun w s hop => ?_, fun _ _ _ s => goesTo_finish s, goesTo_finish, fun _ s => goesTo_finish s⟩
  rw [decode_of_fence_opcode hop]
  unfold decodeFence
  split <;> exact goesTo_finish s

end Sys2Proof.Machine

/-! ## Control and status registers -/

namespace Sys2Proof.Machine

/-! ### The table of CSR numbers -/

theorem csrRead_unmapped (s : State) {n : BitVec 12}
    (h : n ∉ [0x300#12, 0x301#12, 0x304#12, 0x305#12, 0x340#12, 0x341#12, 0x342#12, 0x343#12, 0x344#12, 0xC00#12, 0xF11#12]) :
    s.csrRead n = 0#32 := by
  unfold State.csrRead
  split <;> simp_all

/-- The eight CSR numbers that take a write (rule R31). -/
def writableCsrs : List (BitVec 12) :=
  [0x300#12, 0x304#12, 0x305#12, 0x340#12, 0x341#12, 0x342#12, 0x343#12, 0x344#12]

theorem csrWrite_unwritable (s : State) {n : BitVec 12} (v : Word) (h : n ∉ writableCsrs) : s.csrWrite n v = s := by
  unfold State.csrWrite
  split <;> simp_all [writableCsrs]

/-- Settles O28: the table read off the two functions, number by number. -/
theorem csrAddressTable : Obligations.CsrAddressTable := by
  unfold Obligations.CsrAddressTable
  intro s v
  refine ⟨?_, fun n => csrRead_unmapped s, ?_, fun n => csrWrite_unwritable s v⟩
  · exact ⟨rfl, rfl, rfl, rfl, rfl, rfl, rfl, rfl, rfl, rfl, rfl⟩
  · exact ⟨rfl, rfl, rfl, rfl, rfl, rfl, rfl, rfl⟩

/-- A writable CSR reads what was written to it. -/
theorem csrRead_csrWrite (s : State) {n : BitVec 12} (v : Word) (h : n ∈ writableCsrs) :
    (s.csrWrite n v).csrRead n = v := by
  simp only [writableCsrs, List.mem_cons, List.not_mem_nil, or_false] at h
  rcases h with rfl | rfl | rfl | rfl | rfl | rfl | rfl | rfl <;> rfl

/-- No CSR read looks at a register, the pc or the outcome. -/
theorem csrRead_writtenBack (s : State) (rd : RegIdx) (v pc : Word) (o : StepOutcome) (n : BitVec 12) :
    ({ s.setReg rd v with pc := pc, outcome := o } : State).csrRead n = s.csrRead n := rfl

/-! ### The six CSR instructions -/

/-- An instruction that executes as `csrAccess` completes after the write. -/
theorem csrForm_of_exec {i : Instr} {rd : RegIdx} {csr : BitVec 12} {new : State → Word → Word}
    (hexec : ∀ s, exec i s = csrAccess rd csr (new s) s) : CsrForm i rd csr new := by
  intro s
  rw [hexec]
  exact completes_writeBack _ rd _

/-- The immediate of a CSR instruction, zero-extended (rule R108). -/
theorem csrImm_eq (uimm : BitVec 5) : csrImm uimm = BitVec.ofNat 32 uimm.toNat := (BitVec.ofNat_toNat 32 uimm).symm

/-- Settles O29, instruction by instruction: each is the one `csrAccess` of the model under its own new value. -/
theorem csrInstructions : Obligations.CsrInstructions := by
  unfold Obligations.CsrInstructions
  intro rd rs1 uimm csr
  rw [← csrImm_eq]
  refine ⟨?_, ?_, ?_, ?_, ?_, ?_⟩
  all_goals exact csrForm_of_exec fun _ => rfl

theorem exec_csrrw (rd : RegIdx) (csr : BitVec 12) (rs1 : RegIdx) (s : State) :
    exec (.csrrw rd csr rs1) s = csrAccess rd csr (fun _ => s.reg rs1) s := rfl

theorem exec_csrrs (rd : RegIdx) (csr : BitVec 12) (rs1 : RegIdx) (s : State) :
    exec (.csrrs rd csr rs1) s = csrAccess rd csr (fun old => old ||| s.reg rs1) s := rfl

/-- Settles O30: `x0` adds no bit, so the second instruction writes back what it reads. -/
theorem csrWriteReadsBack : Obligations.CsrWriteReadsBack := by
  unfold Obligations.CsrWriteReadsBack
  intro rd rs1 rx csr s t hcsr hrd ht
  have hread : t.csrRead csr = s.reg rs1 := by
    rw [exec_csrrw, csrAccess_eq] at ht
    cases ht
    rw [csrRead_writtenBack, csrRead_csrWrite _ _ hcsr]
  rw [exec_csrrs, csrAccess_eq, State.reg_zero, BitVec.or_zero, hread]
  obtain ⟨-, hwritten, -⟩ := regsAre_setReg (t.csrWrite csr (s.reg rs1)) rd (s.reg rs1)
  exact ⟨_, rfl, hwritten hrd, by rw [csrRead_writtenBack, csrRead_csrWrite _ _ hcsr]⟩

end Sys2Proof.Machine

/-! ## Calls, sleep, and the way out of a trap -/

namespace Sys2Proof.Machine

/-! ### ECALL and EBREAK -/

theorem exec_ecall (s : State) : exec .ecall s =
    if s.priv = 0#2 then raise .environmentCallFromU s.pc s else raise .environmentCallFromM s.pc s := rfl

/-- Settles O31: the cause number is the code of the exception raised. -/
theorem callsAndBreakpoints : Obligations.CallsAndBreakpoints := by
  unfold Obligations.CallsAndBreakpoints
  intro s
  have hpriv : s.priv = 0#2 ↔ s.priv.toNat = 0 := BitVec.toNat_inj.symm
  rw [exec_ecall]
  refine ⟨fun h => ?_, fun h => ?_, traps_raise s .breakpoint s.pc⟩
  · rw [if_pos (hpriv.2 h)]
    exact traps_raise s .environmentCallFromU s.pc
  · rw [if_neg (mt hpriv.1 h)]
    exact traps_raise s .environmentCallFromM s.pc

/-! ### Early exits -/

/-- An early exit in a step that has counted the instruction of `u`: the count stands only under `CYCLE_ON_EARLY_EXIT`
(rule R37). -/
theorem endEarly_counted (u : State) (o : StepOutcome) (m : Word) (z : Bool) :
    endEarly o { countCycle u with mstatus := m, sleep := z } =
      .next { (if u.params.cycleOnEarlyExit then countCycle u else u) with
        mstatus := m, sleep := z, pc := u.pc + 4#32, outcome := o } := by
  rw [endEarly_eq]
  cases h : u.params.cycleOnEarlyExit
  · have hparam : ({ countCycle u with mstatus := m, sleep := z } : State).params.cycleOnEarlyExit = false := h
    rw [hparam]
    exact congrArg (fun v : State => Host.Outcome.next
      { v with mstatus := m, sleep := z, pc := u.pc + 4#32, outcome := o }) (countCycle_undone u)
  · have hparam : ({ countCycle u with mstatus := m, sleep := z } : State).params.cycleOnEarlyExit = true := h
    rw [hparam]
    rfl

/-- Counting a cycle or not, the registers and memory are those of the state before. -/
theorem ite_countCycle_same (u : State) (c : Bool) :
    RegsSame u (if c then countCycle u else u) ∧ MemSame u (if c then countCycle u else u) := by
  cases c <;> exact ⟨fun _ => rfl, fun _ => rfl⟩

theorem getLsbD_wfiStatus (m : Word) (k : Nat) : (wfiStatus m).getLsbD k = (m.getLsbD k || decide (3 = k)) := by
  rw [wfiStatus, BitVec.getLsbD_or, show (0x8#32 : Word) = BitVec.twoPow 32 3 from rfl, BitVec.getLsbD_twoPow]
  simp

theorem exec_wfi (s : State) :
    exec .wfi s = endEarly .sleeping { s with mstatus := wfiStatus s.mstatus, sleep := true } := rfl

/-- Settles O32: an early exit with bit 3 of `mstatus` set. -/
theorem waitForInterrupt : Obligations.WaitForInterrupt := by
  unfold Obligations.WaitForInterrupt
  intro u
  obtain ⟨hregs, hmem⟩ := ite_countCycle_same u u.params.cycleOnEarlyExit
  refine ⟨_, (exec_wfi (countCycle u)).trans (endEarly_counted u _ _ _), rfl, rfl, hregs, hmem, ?_, fun k hk => ?_, ?_⟩
  · exact (getLsbD_wfiStatus u.mstatus 3).trans (Bool.or_true _)
  · exact (getLsbD_wfiStatus u.mstatus k).trans (by simp [Ne.symm hk])
  · constructor <;> rfl

/-! ### The bits of `mstatus` after trap entry and `MRET` -/

/-- A bit moved to position `n`. -/
theorem getLsbD_bitWord_shiftLeft (b : Bool) {n : Nat} (hn : n < 32) (k : Nat) :
    (bitWord b <<< n).getLsbD k = (b && decide (k = n)) := by
  unfold bitWord
  rw [BitVec.getLsbD_shiftLeft, BitVec.getLsbD_setWidth, BitVec.getLsbD_ofBool]
  by_cases h : k = n
  · subst h; simp [hn]
  · by_cases hlt : k < n
    · simp [h, hlt]
    · simp [h, hlt, show k - n ≠ 0 by omega]

/-- A privilege level in the MPP field. -/
theorem getLsbD_privField (p : BitVec 2) (k : Nat) :
    ((p.setWidth 32 <<< 11 : Word)).getLsbD k = (decide (11 ≤ k) && p.getLsbD (k - 11)) := by
  rw [BitVec.getLsbD_shiftLeft, BitVec.getLsbD_setWidth]
  by_cases hk : k < 13
  · simp [show k < 32 by omega, show k - 11 < 32 by omega, ← decide_not]
  · simp [BitVec.getLsbD_of_ge p (k - 11) (by omega)]

theorem getLsbD_trapStatus (m : Word) (p : BitVec 2) (k : Nat) :
    (trapStatus m p).getLsbD k = ((m.getLsbD 3 && decide (k = 7)) || (decide (11 ≤ k) && p.getLsbD (k - 11))) := by
  rw [trapStatus, BitVec.getLsbD_or, getLsbD_bitWord_shiftLeft _ (by decide), getLsbD_privField, mieBit]

theorem getLsbD_mretStatus (m : Word) (p : BitVec 2) (k : Nat) :
    (mretStatus m p).getLsbD k =
      (((m.getLsbD 7 && decide (k = 3)) || (decide (11 ≤ k) && p.getLsbD (k - 11))) || decide (7 = k)) := by
  rw [mretStatus, BitVec.getLsbD_or, BitVec.getLsbD_or, getLsbD_bitWord_shiftLeft _ (by decide), getLsbD_privField, mpieBit,
    show (0x80#32 : Word) = BitVec.twoPow 32 7 from rfl, BitVec.getLsbD_twoPow]
  simp

theorem mppField_trapStatus (m : Word) (p : BitVec 2) : mppField (trapStatus m p) = p := by
  ext i hi
  rw [mppField, BitVec.getElem_extractLsb', getLsbD_trapStatus]
  simp [show 11 + i ≠ 7 by omega, BitVec.getLsbD_eq_getElem hi]

theorem mppField_mretStatus (m : Word) (p : BitVec 2) : mppField (mretStatus m p) = p := by
  ext i hi
  rw [mppField, BitVec.getElem_extractLsb', getLsbD_mretStatus]
  simp [show 11 + i ≠ 3 by omega, show 7 ≠ 11 + i by omega, BitVec.getLsbD_eq_getElem hi]

/-! ### MRET -/

theorem exec_mret (s : State) : exec .mret s =
    .next { s with
      mstatus := mretStatus s.mstatus s.priv
      priv := mppField s.mstatus
      pc := s.mepc
      outcome := .continued } := rfl

/-- Settles O33: `mstatus` bit by bit; the other words are the update itself. -/
theorem machineReturn : Obligations.MachineReturn := by
  unfold Obligations.MachineReturn
  intro s
  refine ⟨_, exec_mret s, rfl, rfl, fun _ => rfl, fun _ => rfl, ?_, ?_, mppField_mretStatus s.mstatus s.priv,
    fun k hk => ?_, rfl, ?_⟩
  · exact (getLsbD_mretStatus s.mstatus s.priv 3).trans (by simp)
  · exact (getLsbD_mretStatus s.mstatus s.priv 7).trans (by simp)
  · refine (getLsbD_mretStatus s.mstatus s.priv k).trans ?_
    simp only [List.mem_cons, List.not_mem_nil, or_false, not_or] at hk
    obtain ⟨h3, h7, h11, h12⟩ := hk
    by_cases hle : 11 ≤ k
    · simp [h3, Ne.symm h7, BitVec.getLsbD_of_ge s.priv (k - 11) (by omega)]
    · simp [h3, Ne.symm h7, hle]
  · constructor <;> rfl

/-- `MRET` after trap entry: MIE is back from MPIE, MPIE is set, and MPP holds machine mode (rule R352). -/
theorem mretStatus_trapStatus (m : Word) (p : BitVec 2) :
    mretStatus (trapStatus m p) 3#2 = BitVec.ofNat 32 (m.toNat / 2 ^ 3 % 2 * 2 ^ 3 + 0x1880) := by
  have hmpie : mpieBit (trapStatus m p) = m.getLsbD 3 := (getLsbD_trapStatus m p 7).trans (by simp)
  have hbit : m.toNat / 2 ^ 3 % 2 = (m.getLsbD 3).toNat := by
    rw [BitVec.getLsbD, Nat.toNat_testBit]
  rw [mretStatus, hmpie, hbit]
  cases m.getLsbD 3 <;> rfl

/-- Settles O34: trap entry keeps MIE in MPIE and `PRIV` in MPP, and `MRET` takes them from there. -/
theorem returnUndoesTrap : Obligations.ReturnUndoesTrap := by
  unfold Obligations.ReturnUndoesTrap
  intro cause tval s
  refine ⟨_, exec_mret _, rfl, mppField_trapStatus s.mstatus s.priv, ?_, mretStatus_trapStatus s.mstatus s.priv,
    fun _ => rfl, fun _ => rfl⟩
  exact (getLsbD_mretStatus _ _ 3).trans (by rw [enterTrap_mstatus, getLsbD_trapStatus]; simp)

end Sys2Proof.Machine

/-! ## The privilege level restricts no instruction

Two runs of one instruction from states that differ in `PRIV` are compared operation by operation, in the order the model
builds its meanings from them. Only trap entry and trap return look at `PRIV`, and they save it in the MPP field. -/

namespace Sys2Proof.Machine

/-- The state at another privilege level. -/
def State.withPriv (s : State) (p : BitVec 2) : State := { s with priv := p }

/-- Two answers that agree but for `PRIV` and the MPP field of `mstatus`. -/
def Alike (r r' : Result) : Prop :=
  ∃ (t : State) (m : Word) (q : BitVec 2), r = .next t ∧ r' = .next { t with mstatus := m, priv := q } ∧
    ∀ k, k ≠ 11 → k ≠ 12 → m.getLsbD k = t.mstatus.getLsbD k

section
variable {s : State} {p : BitVec 2}

theorem Alike.next (t : State) (p : BitVec 2) : Alike (.next t) (.next (t.withPriv p)) :=
  ⟨t, t.mstatus, p, rfl, rfl, fun _ _ _ => rfl⟩

theorem Alike.ite {c : Prop} [Decidable c] {r₁ r₁' r₂ r₂' : Result} (h₁ : Alike r₁ r₁') (h₂ : Alike r₂ r₂') :
    Alike (if c then r₁ else r₂) (if c then r₁' else r₂') := by
  split
  · exact h₁
  · exact h₂

/-- Outside MPP no bit of `mstatus` after trap entry depends on the privilege level. -/
theorem getLsbD_privField_eq_false (p : BitVec 2) {k : Nat} (h11 : k ≠ 11) (h12 : k ≠ 12) :
    (decide (11 ≤ k) && p.getLsbD (k - 11)) = false := by
  by_cases hle : 11 ≤ k
  · simp [BitVec.getLsbD_of_ge p (k - 11) (by omega)]
  · simp [hle]

theorem Alike.raise (e : Exception) (v : Word) : Alike (raise e v s) (raise e v (s.withPriv p)) := by
  refine ⟨enterTrap e.code v s, trapStatus s.mstatus p, 3#2, rfl, rfl, fun k h11 h12 => ?_⟩
  rw [enterTrap_mstatus, getLsbD_trapStatus, getLsbD_trapStatus, getLsbD_privField_eq_false p h11 h12,
    getLsbD_privField_eq_false s.priv h11 h12]

theorem Alike.mret : Alike (exec .mret s) (exec .mret (s.withPriv p)) := by
  refine ⟨_, mretStatus s.mstatus p, mppField s.mstatus, exec_mret s, rfl, fun k h11 h12 => ?_⟩
  change (mretStatus s.mstatus p).getLsbD k = (mretStatus s.mstatus s.priv).getLsbD k
  rw [getLsbD_mretStatus, getLsbD_mretStatus, getLsbD_privField_eq_false p h11 h12,
    getLsbD_privField_eq_false s.priv h11 h12]

theorem Alike.writeBack (rd : RegIdx) (v : Word) : Alike (writeBack rd v s) (writeBack rd v (s.withPriv p)) :=
  .next _ p

theorem Alike.jumpTo (target : Word) : Alike (jumpTo target s) (jumpTo target (s.withPriv p)) := .next _ p

theorem Alike.finish : Alike (finish s) (finish (s.withPriv p)) := .jumpTo _

theorem Alike.endEarly (o : StepOutcome) : Alike (endEarly o s) (endEarly o (s.withPriv p)) := by
  have hparam : (s.withPriv p).params.cycleOnEarlyExit = s.params.cycleOnEarlyExit := rfl
  rw [endEarly_eq, endEarly_eq, hparam]
  cases s.params.cycleOnEarlyExit <;> exact .next _ p

theorem csrWrite_withPriv (n : BitVec 12) (v : Word) : (s.withPriv p).csrWrite n v = (s.csrWrite n v).withPriv p := by
  unfold State.csrWrite
  split <;> rfl

theorem csrRead_withPriv (n : BitVec 12) : (s.withPriv p).csrRead n = s.csrRead n := rfl

theorem Alike.csrAccess (rd : RegIdx) (csr : BitVec 12) (new : Word → Word) :
    Alike (csrAccess rd csr new s) (csrAccess rd csr new (s.withPriv p)) := by
  unfold Machine.csrAccess
  rw [csrWrite_withPriv, csrRead_withPriv]
  exact .writeBack rd _

theorem Alike.branch (cond : Word → Word → Bool) (rs1 rs2 : RegIdx) (offset : BitVec 13) :
    Alike (branch cond rs1 rs2 offset s) (branch cond rs1 rs2 offset (s.withPriv p)) :=
  .ite (.jumpTo _) (.jumpTo _)

theorem Alike.load {rd rs1 : RegIdx} {imm : BitVec 12} {f : Word → State → Result}
    (hf : ∀ a, Alike (f a s) (f a (s.withPriv p))) :
    Alike (load rd rs1 imm f s) (load rd rs1 imm f (s.withPriv p)) :=
  .ite (hf _) (.ite (.writeBack rd _) (.ite (.writeBack rd _) (.raise _ _)))

theorem Alike.store {rs2 rs1 : RegIdx} {imm : BitVec 12} {f : Word → Word → State → Result}
    (hf : ∀ a v, Alike (f a v s) (f a v (s.withPriv p))) :
    Alike (store rs2 rs1 imm f s) (store rs2 rs1 imm f (s.withPriv p)) :=
  .ite (hf _ _) (.ite (.next _ p) (.ite (.next _ p) (.ite (.endEarly _) (.raise _ _))))

theorem Alike.atomic {rs1 : RegIdx} {op : Word → State → Result}
    (hop : ∀ a, Alike (op a s) (op a (s.withPriv p))) :
    Alike (atomic rs1 op s) (atomic rs1 op (s.withPriv p)) :=
  .ite (hop _) (.raise _ _)

theorem Alike.amo (f : Word → Word → Word) (rd rs2 rs1 : RegIdx) :
    Alike (amo f rd rs2 rs1 s) (amo f rd rs2 rs1 (s.withPriv p)) :=
  .atomic fun _ => .next _ p

end

/-- The meaning of every instruction but `ECALL`, from two privilege levels. -/
theorem exec_alike {i : Instr} (s : State) (p : BitVec 2) (hi : i ≠ .ecall) :
    Alike (exec i s) (exec i (s.withPriv p)) := by
  cases i with
  | ecall => exact absurd rfl hi
  | mret => exact .mret
  | wfi => exact Alike.endEarly (s := { s with mstatus := wfiStatus s.mstatus, sleep := true }) .sleeping
  | ebreak | illegal => exact .raise _ _
  | jal | jalr => exact .next _ p
  | fence | fenceI | fenceOther => exact .finish
  | beq | bne | blt | bge | bltu | bgeu =>
    simp only [exec, execBeq, execBne, execBlt, execBge, execBltu, execBgeu]
    exact .branch _ _ _ _
  | lb | lh | lw | lbu | lhu =>
    simp only [exec, execLb, execLh, execLw, execLbu, execLhu]
    exact .load fun _ => .writeBack _ _
  | loadRsv => exact Alike.load (f := fun _ s => raise .illegalInstruction s.pc s) fun _ => .raise _ _
  | sb | sh | sw =>
    simp only [exec, execSb, execSh, execSw]
    exact .store fun _ _ => .next _ p
  | storeRsv => exact Alike.store (f := fun _ _ s => raise .illegalInstruction s.pc s) fun _ _ => .raise _ _
  | csrrw | csrrs | csrrc | csrrwi | csrrsi | csrrci =>
    simp only [exec, execCsrrw, execCsrrs, execCsrrc, execCsrrwi, execCsrrsi, execCsrrci]
    exact .csrAccess _ _ _
  | lrW =>
    simp only [exec, execLrW]
    exact .atomic fun _ => .next _ p
  | scW =>
    simp only [exec, execScW]
    exact .atomic fun _ => .ite (.next _ p) (.writeBack _ _)
  | amoswapW | amoaddW | amoxorW | amoandW | amoorW | amominW | amomaxW | amominuW | amomaxuW =>
    simp only [exec, execAmoswapW, execAmoaddW, execAmoxorW, execAmoandW, execAmoorW, execAmominW, execAmomaxW,
      execAmominuW, execAmomaxuW]
    exact .amo _ _ _ _
  | amoRsv => exact Alike.atomic (op := fun _ s => raise .illegalInstruction s.pc s) fun _ => .raise _ _
  | _ => exact .writeBack _ _

/-- Settles O35: what two alike answers share. -/
theorem privilegeRestrictsNothing : Obligations.PrivilegeRestrictsNothing := by
  unfold Obligations.PrivilegeRestrictsNothing
  intro i s p hi
  obtain ⟨t, m, q, ht, hu, hbits⟩ := exec_alike s p hi
  exact ⟨t, _, ht, hu, fun _ => rfl, fun _ => rfl, rfl, rfl, Kept.refl _, hbits⟩

end Sys2Proof.Machine

/-! ## Loads and stores, inside the buffer and outside

A load or a store is one operation of the model under a width (rules R190, R200), so what it does at each kind of address is
said once for all widths; the width only says what happens inside the buffer. -/

namespace Sys2Proof.Machine

variable {s : State}

/-! ### What each instruction is of the two operations -/

section
variable (rd rs2 rs1 : RegIdx) (imm : BitVec 12) (funct3 : BitVec 3) (funct5 : BitVec 5) (s : State)

theorem exec_lb : exec (.lb rd rs1 imm) s =
    load rd rs1 imm (fun a s => writeBack rd ((s.read8 a).signExtend 32) s) s := rfl

theorem exec_lh : exec (.lh rd rs1 imm) s =
    load rd rs1 imm (fun a s => writeBack rd ((s.read16 a).signExtend 32) s) s := rfl

theorem exec_lw : exec (.lw rd rs1 imm) s = load rd rs1 imm (fun a s => writeBack rd (s.read32 a) s) s := rfl

theorem exec_lbu : exec (.lbu rd rs1 imm) s =
    load rd rs1 imm (fun a s => writeBack rd ((s.read8 a).setWidth 32) s) s := rfl

theorem exec_lhu : exec (.lhu rd rs1 imm) s =
    load rd rs1 imm (fun a s => writeBack rd ((s.read16 a).setWidth 32) s) s := rfl

theorem exec_loadRsv : exec (.loadRsv rd rs1 imm funct3) s =
    load rd rs1 imm (fun _ s => raise .illegalInstruction s.pc s) s := rfl

theorem exec_sb : exec (.sb rs2 rs1 imm) s =
    store rs2 rs1 imm (fun a v s => finish ((s.write8 a (v.extractLsb' 0 8)).afterWrite a 1)) s := rfl

theorem exec_sh : exec (.sh rs2 rs1 imm) s =
    store rs2 rs1 imm (fun a v s => finish ((s.write16 a (v.extractLsb' 0 16)).afterWrite a 2)) s := rfl

theorem exec_sw : exec (.sw rs2 rs1 imm) s =
    store rs2 rs1 imm (fun a v s => finish ((s.write32 a v).afterWrite a 4)) s := rfl

theorem exec_storeRsv : exec (.storeRsv rs2 rs1 imm funct3) s =
    store rs2 rs1 imm (fun _ _ s => raise .illegalInstruction s.pc s) s := rfl

theorem exec_amoRsv : exec (.amoRsv rs1 funct5) s =
    atomic rs1 (fun _ s => raise .illegalInstruction s.pc s) s := rfl

end

/-! ### Loads inside the buffer -/

/-- The two's-complement reading of a bit vector (rule R14). -/
theorem signExtend_eq_signedOf {n : Nat} (x : BitVec n) :
    x.signExtend 32 = BitVec.ofInt 32 (signedOf n x.toNat) := by
  have hsigned : x.toInt = signedOf n x.toNat := by
    cases n with
    | zero => simp [BitVec.of_length_zero, signedOf]
    | succ n =>
      rw [BitVec.toInt_eq_toNat_cond, signedOf, Nat.add_sub_cancel]
      exact if_congr (by rw [Nat.pow_succ]; omega) rfl (by push_cast; rfl)
  rw [BitVec.signExtend, hsigned]

theorem setWidth_eq_ofNat {n : Nat} (x : BitVec n) : (x.setWidth 32 : Word) = BitVec.ofNat 32 x.toNat :=
  (BitVec.ofNat_toNat 32 x).symm

/-- A load instruction whose width gives the register what `extend` makes of the bytes read. -/
theorem loadForm_of_exec {make : RegIdx → RegIdx → BitVec 12 → Instr} {width : Nat} {extend : Nat → Word}
    {f : Word → State → Word}
    (hexec : ∀ rd rs1 imm s, exec (make rd rs1 imm) s = load rd rs1 imm (fun a s => writeBack rd (f a s) s) s)
    (hvalue : ∀ a s, f a s = extend (bytesAt s a width)) : LoadForm make width extend := by
  intro rd rs1 imm s h
  rw [hexec, load_inside h, hvalue]
  exact completes_writeBack s rd _

/-- Settles O18, width by width: the bytes read are the byte sum of the form, and the extension is the model's own. -/
theorem loadsInsideBuffer : Obligations.LoadsInsideBuffer := by
  unfold Obligations.LoadsInsideBuffer
  refine ⟨loadForm_of_exec exec_lb fun a s => ?_, loadForm_of_exec exec_lh fun a s => ?_,
    loadForm_of_exec exec_lw fun a s => read32_eq s a, loadForm_of_exec exec_lbu fun a s => ?_,
    loadForm_of_exec exec_lhu fun a s => ?_⟩
  · rw [signExtend_eq_signedOf, read8_toNat]
  · rw [signExtend_eq_signedOf, read16_toNat]
  · rw [setWidth_eq_ofNat, read8_toNat]
  · rw [setWidth_eq_ofNat, read16_toNat]

/-! ### Loads outside the buffer -/

/-- Outside the buffer the width of a load does not matter (rules R67, R72). -/
theorem loadOutsideForm_of_exec {make : RegIdx → RegIdx → BitVec 12 → Instr} {f : RegIdx → Word → State → Result}
    (hexec : ∀ rd rs1 imm s, exec (make rd rs1 imm) s = load rd rs1 imm (f rd) s) : LoadOutsideForm make := by
  rintro rd rs1 imm s a rfl hout
  rw [hexec]
  have hcases := load_cases s rd rs1 imm (f rd)
  rw [effAddr_eq, (inRam_eq_false_iff s _).2 hout] at hcases
  rcases hcases with ⟨hin, -⟩ | ⟨-, ⟨ha, h⟩ | ⟨ha, h⟩ | ⟨hhigh, hlow, h⟩⟩
  · cases hin
  · rw [h, ha]
    exact ⟨fun _ => completes_writeBack s rd _, fun heq => absurd heq (by decide), fun hne => absurd rfl hne⟩
  · rw [h, ha]
    exact ⟨fun heq => absurd heq (by decide), fun _ => completes_writeBack s rd _, fun _ hne => absurd rfl hne⟩
  · rw [h]
    exact ⟨fun heq => absurd heq hhigh, fun heq => absurd heq hlow, fun _ _ => traps_raise s .loadAccessFault _⟩

/-- Settles O19: all six are the one `load` of the model. -/
theorem loadsOutsideBuffer : Obligations.LoadsOutsideBuffer := by
  unfold Obligations.LoadsOutsideBuffer
  exact ⟨loadOutsideForm_of_exec exec_lb, loadOutsideForm_of_exec exec_lh, loadOutsideForm_of_exec exec_lw,
    loadOutsideForm_of_exec exec_lbu, loadOutsideForm_of_exec exec_lhu,
    fun funct3 => loadOutsideForm_of_exec fun rd rs1 imm s => exec_loadRsv rd rs1 imm funct3 s⟩

/-! ### Stores -/

/-- Settles O20: the forms that the loads after a store rest on. -/
theorem storesInsideBuffer : Obligations.StoresInsideBuffer := by
  unfold Obligations.StoresInsideBuffer
  exact ⟨storeForm_sb, storeForm_sh, storeForm_sw⟩

/-- Outside the buffer the width of a store does not matter (rules R67, R73). -/
theorem storeOutsideForm_of_exec {make : RegIdx → RegIdx → BitVec 12 → Instr} {f : Word → Word → State → Result}
    (hexec : ∀ rs2 rs1 imm s, exec (make rs2 rs1 imm) s = store rs2 rs1 imm f s) : StoreOutsideForm make := by
  rintro rs2 rs1 imm s a rfl hout
  rw [hexec]
  have hcases := store_cases s rs2 rs1 imm f
  rw [effAddr_eq, (inRam_eq_false_iff s _).2 hout] at hcases
  rcases hcases with ⟨hin, -⟩ | ⟨-, ⟨ha, h⟩ | ⟨ha, h⟩ | ⟨ha, h⟩ | ⟨hhigh, hlow, hsyscon, h⟩⟩
  · cases hin
  · rw [h, ha]
    exact ⟨fun _ => goesTo_finish _, fun heq => absurd heq (by decide), fun hne => absurd rfl hne⟩
  · rw [h, ha]
    exact ⟨fun heq => absurd heq (by decide), fun _ => goesTo_finish _, fun _ hne => absurd rfl hne⟩
  · rw [h, ha]
    exact ⟨fun heq => absurd heq (by decide), fun heq => absurd heq (by decide), fun _ _ hne => absurd rfl hne⟩
  · rw [h]
    exact ⟨fun heq => absurd heq hhigh, fun heq => absurd heq hlow, fun _ _ _ => traps_raise s .storeAccessFault _⟩

/-- Settles O21: all four are the one `store` of the model. -/
theorem storesOutsideBuffer : Obligations.StoresOutsideBuffer := by
  unfold Obligations.StoresOutsideBuffer
  exact ⟨storeOutsideForm_of_exec exec_sb, storeOutsideForm_of_exec exec_sh, storeOutsideForm_of_exec exec_sw,
    fun funct3 => storeOutsideForm_of_exec fun rs2 rs1 imm s => exec_storeRsv rs2 rs1 imm funct3 s⟩

/-- A store to the system-control address outside the buffer is an early exit (rule R207). -/
theorem store_syscon {rs2 rs1 : RegIdx} {imm : BitVec 12} {f : Word → Word → State → Result}
    (haddr : displaced (s.reg rs1) imm = sysconAddr) (hout : ¬InRam s sysconAddr) :
    store rs2 rs1 imm f s = endEarly (.shutdown (s.reg rs2)) s := by
  have hcases := store_cases s rs2 rs1 imm f
  rw [effAddr_eq, haddr, (inRam_eq_false_iff s _).2 hout] at hcases
  rcases hcases with ⟨hin, -⟩ | ⟨-, ⟨ha, -⟩ | ⟨ha, -⟩ | ⟨-, h⟩ | ⟨-, -, hne, -⟩⟩
  · cases hin
  · exact absurd ha (by decide)
  · exact absurd ha (by decide)
  · exact h
  · exact absurd rfl hne

theorem shutdownForm_of_exec {make : RegIdx → RegIdx → BitVec 12 → Instr} {f : Word → Word → State → Result}
    (hexec : ∀ rs2 rs1 imm s, exec (make rs2 rs1 imm) s = store rs2 rs1 imm f s) : ShutdownForm make := by
  intro rs2 rs1 imm u haddr hout
  have hstore := store_syscon (s := countCycle u) (rs2 := rs2) (f := f) haddr hout
  obtain ⟨hregs, hmem⟩ := ite_countCycle_same u u.params.cycleOnEarlyExit
  refine ⟨_, (hexec _ _ _ _).trans (hstore.trans (endEarly_counted u _ u.mstatus u.sleep)), rfl, rfl, hregs, hmem, ?_⟩
  cases u.params.cycleOnEarlyExit <;> constructor <;> rfl

/-- Settles O22: all four are the one `store` of the model. -/
theorem shutdownStores : Obligations.ShutdownStores := by
  unfold Obligations.ShutdownStores
  exact ⟨shutdownForm_of_exec exec_sb, shutdownForm_of_exec exec_sh, shutdownForm_of_exec exec_sw,
    fun funct3 => shutdownForm_of_exec fun rs2 rs1 imm s => exec_storeRsv rs2 rs1 imm funct3 s⟩

/-! ### Undefined selectors inside the buffer -/

/-- Settles O23: inside the buffer the three operations do what their selector says, which is to trap. -/
theorem reservedSelectorsTrapInsideBuffer : Obligations.ReservedSelectorsTrapInsideBuffer := by
  unfold Obligations.ReservedSelectorsTrapInsideBuffer
  refine ⟨fun rd rs1 imm f s h => ?_, fun rs2 rs1 imm f s h => ?_, fun rs1 f s h => ?_⟩
  · rw [exec_loadRsv, load_inside h]
    exact traps_raise s .illegalInstruction s.pc
  · rw [exec_storeRsv, store_inside h]
    exact traps_raise s .illegalInstruction s.pc
  · rw [exec_amoRsv, atomic_inside h]
    exact traps_raise s .illegalInstruction s.pc

/-! ### Accesses of different widths -/

theorem byteAddr_add (a : Word) (k j : Nat) : byteAddr (a + BitVec.ofNat 32 k) j = byteAddr a (k + j) := by
  rw [byteAddr, byteAddr, BitVec.add_assoc, BitVec.ofNat_add]

/-- The four addresses of a word are different, whatever the address (they may wrap). -/
theorem byteAddr_inj (a : Word) {j k : Nat} (hj : j < 4) (hk : k < 4) : byteAddr a j = byteAddr a k ↔ j = k := by
  refine ⟨fun h => ?_, fun h => h ▸ rfl⟩
  have haddr := a.isLt
  simp only [byteAddr, BitVec.toNat_add, BitVec.toNat_ofNat] at h
  omega

/-- A half-word is its two bytes. -/
theorem half_eq_of_bytes {v w : Half} (h : ∀ j < 2, v.extractLsb' (8 * j) 8 = w.extractLsb' (8 * j) 8) : v = w := by
  ext i hi
  have hbit := congrArg (fun b : Byte => b.getLsbD (i % 8)) (h (i / 8) (by omega))
  simpa [Nat.mod_lt, Nat.div_add_mod, BitVec.getLsbD_eq_getElem hi] using hbit

theorem extractLsb'_byte_of_half (v : Word) (k : Nat) {j : Nat} (hj : j < 2) :
    (v.extractLsb' (8 * k) 16).extractLsb' (8 * j) 8 = v.extractLsb' (8 * (k + j)) 8 := by
  ext i hi
  rw [BitVec.getElem_extractLsb', BitVec.getElem_extractLsb', BitVec.getLsbD_extractLsb', decide_eq_true (by omega),
    Bool.true_and, show 8 * (k + j) + i = 8 * k + (8 * j + i) by omega]

/-- Settles O24, byte by byte: every access is made of the bytes at its addresses, and the four addresses of the word are
different. -/
theorem mixedWidthAccesses : Obligations.MixedWidthAccesses := by
  unfold Obligations.MixedWidthAccesses
  intro s a v
  obtain ⟨hword, -⟩ := memStored_write32 s a v
  refine ⟨hword, fun k hk => half_eq_of_bytes fun j hj => ?_, State.read32_write32 s a v, fun k hk b j hj => ?_,
    fun k hk h j hj => ?_⟩
  · rw [read16_byte _ _ hj, byteAddr_add, hword (k + j) (by omega), extractLsb'_byte_of_half v k hj]
  · rw [read32_byte _ _ hj, State.write8_mem, Memory.read_write, hword j hj]
    exact if_congr (byteAddr_inj a hj hk) rfl rfl
  · have hnext : (a + BitVec.ofNat 32 k + 1#32).toNat = byteAddr a (k + 1) := byteAddr_add a k 1
    rw [read32_byte _ _ hj, State.read_write16, hnext, hword j hj]
    have hlow := byteAddr_inj a hj (show k < 4 by omega)
    have hhigh := byteAddr_inj a hj (show k + 1 < 4 by omega)
    by_cases hjk : j = k
    · rw [if_neg (mt hhigh.1 (by omega)), if_pos hjk]
      exact if_pos (hlow.2 hjk)
    · rw [if_neg hjk]
      exact if_congr hhigh rfl (if_neg (mt hlow.1 hjk))

end Sys2Proof.Machine

/-! ## Store-conditional, and atomics outside the buffer -/

namespace Sys2Proof.Machine

variable {s : State}

/-! ### The reservation -/

/-- When `SC.W` succeeds, in rule R312's arithmetic. -/
theorem reserved_iff (s : State) (a : Word) : s.reserved a = true ↔
    s.res.toNat = (a - s.params.memBase).toNat % 2 ^ 29 ∧
      ¬(s.params.storeBreaksReservation = true ∧ s.resBroken = true) := by
  have htag : s.res = s.reservationTag a ↔ s.res.toNat = (a - s.params.memBase).toNat % 2 ^ 29 := by
    rw [reservationTag_eq, ← BitVec.toNat_inj, BitVec.toNat_ofNat]
  rw [State.reserved, Bool.and_eq_true, decide_eq_true_iff, htag, Bool.not_eq_true', ← Bool.not_eq_true, Bool.and_eq_true]

theorem exec_scW (rd rs2 rs1 : RegIdx) (aq rl : BitVec 1) (s : State) : exec (.scW rd rs2 rs1 aq rl) s =
    atomic rs1 (fun a s => if s.reserved a then writeBack rd 0#32 ((s.write32 a (s.reg rs2)).afterWrite a 4)
      else writeBack rd 1#32 s) s := rfl

/-- Settles O37: the two premises are the two values of the model's test. -/
theorem storeConditional : Obligations.StoreConditional := by
  unfold Obligations.StoreConditional
  intro rd rs2 rs1 aq rl s hin
  rw [exec_scW, atomic_inside hin]
  refine ⟨fun hsucceeds => ?_, fun hfails => ?_⟩
  · rw [if_pos ((reserved_iff s _).2 hsucceeds)]
    exact storesAndWrites_writeBack s (by decide) rfl (memStored_write32 s _ _)
  · rw [if_neg fun hres => ?_]
    · exact completes_writeBack s rd 1#32
    · obtain ⟨htag, hwhole⟩ := (reserved_iff s _).1 hres
      exact hfails.elim (fun hne => hne htag) hwhole

/-- Settles O38: what `LR.W` records is what `SC.W` compares, and `SC.W` neither moves the reservation nor, where stores do not
break it, looks at the flag its write may set. -/
theorem reservePairSucceeds : Obligations.ReservePairSucceeds := by
  unfold Obligations.ReservePairSucceeds
  intro rd rs1 rx ry rs2 rb aq rl s t hin hrx hry ht haddr
  obtain ⟨_, ht', -, -, -, hkept, -⟩ := loadReserved rd rs1 aq rl s hin
  cases ht'.symm.trans ht
  have hparams : t.params = s.params := hkept.params
  have htag : t.res.toNat = (t.reg rb - t.params.memBase).toNat % 2 ^ 29 := by
    rw [hkept.res, hparams, haddr, BitVec.toNat_ofNat]
  have hwhole : t.resBroken = false := hkept.resBroken
  have hin' : InRam t (t.reg rb) := by
    rw [haddr, InRam, hparams]
    exact hin
  obtain ⟨hfirst, -⟩ := storeConditional rx rs2 rb aq rl t hin'
  obtain ⟨u, hu, ⟨-, hrxval, -⟩, -, -, -, hkept', -⟩ := hfirst ⟨htag, by simp [hwhole]⟩
  refine ⟨u, hu, hrxval hrx, fun hkeeps haddr' => ?_⟩
  have hparams' : u.params = t.params := hkept'.params
  have hsame : u.reg rb = t.reg rb := haddr'.trans haddr.symm
  have htag' : u.res.toNat = (u.reg rb - u.params.memBase).toNat % 2 ^ 29 := by
    rw [hkept'.res, hparams', hsame]
    exact htag
  have hin'' : InRam u (u.reg rb) := by
    rw [hsame, InRam, hparams']
    exact hin'
  have hbreaks : u.params.storeBreaksReservation = false := by rw [hparams', hparams, hkeeps]
  obtain ⟨hsecond, -⟩ := storeConditional ry rs2 rb aq rl u hin''
  obtain ⟨v, hv, ⟨-, hryval, -⟩, -⟩ := hsecond ⟨htag', by simp [hbreaks]⟩
  exact ⟨v, hv, hryval hry⟩

/-! ### Outside the buffer -/

/-- Outside the buffer an atomic's operation does not matter (rules R310, R313). -/
theorem atomicOutside_of_exec {i : Instr} {rs1 : RegIdx} {op : Word → State → Result}
    (hexec : ∀ s, exec i s = atomic rs1 op s) : AtomicOutside i rs1 := by
  intro s hout
  rw [hexec, atomic, if_neg (mt (inRam_iff s _).1 hout)]
  exact traps_raise s .storeAccessFault _

section
variable (rd rs2 rs1 : RegIdx) (aq rl : BitVec 1) (s : State)

theorem exec_amoswapW : exec (.amoswapW rd rs2 rs1 aq rl) s =
    amo (fun v _ => v) rd rs2 rs1 s := rfl

theorem exec_amoaddW : exec (.amoaddW rd rs2 rs1 aq rl) s =
    amo (fun v old => v + old) rd rs2 rs1 s := rfl

theorem exec_amoxorW : exec (.amoxorW rd rs2 rs1 aq rl) s =
    amo (fun v old => v ^^^ old) rd rs2 rs1 s := rfl

theorem exec_amoandW : exec (.amoandW rd rs2 rs1 aq rl) s =
    amo (fun v old => v &&& old) rd rs2 rs1 s := rfl

theorem exec_amoorW : exec (.amoorW rd rs2 rs1 aq rl) s =
    amo (fun v old => v ||| old) rd rs2 rs1 s := rfl

theorem exec_amominW : exec (.amominW rd rs2 rs1 aq rl) s =
    amo (fun v old => if v.slt old then v else old) rd rs2 rs1 s := rfl

theorem exec_amomaxW : exec (.amomaxW rd rs2 rs1 aq rl) s =
    amo (fun v old => if old.slt v then v else old) rd rs2 rs1 s := rfl

theorem exec_amominuW : exec (.amominuW rd rs2 rs1 aq rl) s =
    amo (fun v old => if v.ult old then v else old) rd rs2 rs1 s := rfl

theorem exec_amomaxuW : exec (.amomaxuW rd rs2 rs1 aq rl) s =
    amo (fun v old => if old.ult v then v else old) rd rs2 rs1 s := rfl

end

theorem atomicOutside_of_amo {i : Instr} {rd rs2 rs1 : RegIdx} {f : Word → Word → Word}
    (hexec : ∀ s, exec i s = amo f rd rs2 rs1 s) : AtomicOutside i rs1 :=
  atomicOutside_of_exec hexec

/-- Settles O40: all twelve are the one `atomic` of the model. -/
theorem atomicsOutsideBuffer : Obligations.AtomicsOutsideBuffer := by
  unfold Obligations.AtomicsOutsideBuffer
  intro rd rs2 rs1 aq rl f
  exact ⟨atomicOutside_of_exec (exec_lrW rd rs1 aq rl), atomicOutside_of_exec (exec_scW rd rs2 rs1 aq rl),
    atomicOutside_of_amo (exec_amoswapW rd rs2 rs1 aq rl), atomicOutside_of_amo (exec_amoaddW rd rs2 rs1 aq rl),
    atomicOutside_of_amo (exec_amoxorW rd rs2 rs1 aq rl), atomicOutside_of_amo (exec_amoandW rd rs2 rs1 aq rl),
    atomicOutside_of_amo (exec_amoorW rd rs2 rs1 aq rl), atomicOutside_of_amo (exec_amominW rd rs2 rs1 aq rl),
    atomicOutside_of_amo (exec_amomaxW rd rs2 rs1 aq rl), atomicOutside_of_amo (exec_amominuW rd rs2 rs1 aq rl),
    atomicOutside_of_amo (exec_amomaxuW rd rs2 rs1 aq rl), atomicOutside_of_exec (exec_amoRsv rs1 f)⟩

end Sys2Proof.Machine

/-! ## The laws of division

The quotient and the remainder are narrowed to 32 bits; outside the zero divisor and the overflow pair nothing is lost by
it, so the laws are those of exact division. -/

namespace Sys2Proof.Machine

/-- What an instruction of register form has left in its destination, once it answered. -/
theorem RegisterForm.reg_eq {mask pattern : Word} {make : RegIdx → RegIdx → RegIdx → Instr} {result : Word → Word → Word}
    (hform : RegisterForm mask pattern make result) {rd rs1 rs2 : RegIdx} {s t : State} (hrd : rd ≠ 0#5)
    (ht : exec (make rd rs1 rs2) s = .next t) : t.reg rd = result (s.reg rs1) (s.reg rs2) := by
  obtain ⟨-, hexec⟩ := hform
  obtain ⟨u, hu, ⟨-, hval, -⟩, -⟩ := hexec rd rs1 rs2 s
  cases hu.symm.trans ht
  exact hval hrd

section
variable {a b : Word}

theorem toNat_ofNat_div : (BitVec.ofNat 32 (a.toNat / b.toNat)).toNat = a.toNat / b.toNat := by
  rw [BitVec.toNat_ofNat, Nat.mod_eq_of_lt (Nat.lt_of_le_of_lt (Nat.div_le_self _ _) a.isLt)]

theorem toNat_ofNat_mod : (BitVec.ofNat 32 (a.toNat % b.toNat)).toNat = a.toNat % b.toNat := by
  rw [BitVec.toNat_ofNat, Nat.mod_eq_of_lt (Nat.lt_of_le_of_lt (Nat.mod_le _ _) a.isLt)]

/-- Only the overflow pair has a quotient out of range. -/
theorem toInt_ofInt_tdiv (h : ¬(a.toInt = -2 ^ 31 ∧ b.toInt = -1)) :
    (BitVec.ofInt 32 (a.toInt.tdiv b.toInt)).toInt = a.toInt.tdiv b.toInt := by
  have hpair : a ≠ BitVec.intMin 32 ∨ b ≠ -1#32 := by
    rw [← not_and_or]
    rintro ⟨rfl, rfl⟩
    exact h ⟨by decide, by decide⟩
  rw [BitVec.toInt_ofInt, ← BitVec.toInt_sdiv, BitVec.toInt_sdiv_of_ne_or_ne a b hpair]

theorem toInt_ofInt_tmod : (BitVec.ofInt 32 (a.toInt.tmod b.toInt)).toInt = a.toInt.tmod b.toInt := by
  rw [← BitVec.toInt_srem, BitVec.ofInt_toInt]

end

/-- A remainder of truncated division has the sign of the dividend (decision D28). -/
theorem tmod_mul_self_nonneg (m n : Int) : 0 ≤ m.tmod n * m := by
  rcases Int.le_total 0 m with hm | hm
  · exact Int.mul_nonneg (Int.tmod_nonneg n hm) hm
  · have hneg : 0 ≤ -m.tmod n := by
      rw [← Int.neg_tmod]
      exact Int.tmod_nonneg n (by omega)
    exact Int.mul_nonneg_of_nonpos_of_nonpos (by omega) hm

/-- Settles O17: each register holds the exact quotient or remainder. -/
theorem divisionLaws : Obligations.DivisionLaws := by
  unfold Obligations.DivisionLaws
  intro rd rs1 rs2 s q r q' r' hrd hdivisor hq hr hq' hr'
  have hnat : (s.reg rs2).toNat ≠ 0 := mt (eq_zero_iff_toNat _).2 hdivisor
  have hint : (s.reg rs2).toInt ≠ 0 := mt (eq_zero_iff_toInt _).2 hdivisor
  rw [registerForm_div.reg_eq hrd hq, registerForm_rem.reg_eq hrd hr, registerForm_divu.reg_eq hrd hq',
    registerForm_remu.reg_eq hrd hr']
  simp only [if_neg hnat, if_neg hint, toNat_ofNat_div, toNat_ofNat_mod]
  refine ⟨fun hpair => ?_, (Nat.div_add_mod _ _).symm, Nat.mod_lt _ (Nat.pos_of_ne_zero hnat)⟩
  simp only [if_neg hpair, toInt_ofInt_tdiv hpair, toInt_ofInt_tmod]
  refine ⟨(Int.mul_tdiv_add_tmod _ _).symm, ?_, tmod_mul_self_nonneg _ _⟩
  rw [Int.natAbs_tmod]
  exact Nat.mod_lt _ (Int.natAbs_pos.2 hint)

end Sys2Proof.Machine

/-! ## The stages of a step

Which of its ways a step takes is decided by the conditions of the spec (`StaysAsleep`, `InterruptDue`, `Attempts`); here
each condition gives the step's answer. -/

namespace Sys2Proof.Machine

variable {s t : State} {e : Word}

/-! ### The timer stage -/

/-- The pending bit is the match condition, and no other bit of `mip` moves (rule R342). -/
theorem getLsbD_mipWithTimer (mip : Word) (b : Bool) (k : Nat) :
    (mipWithTimer mip b).getLsbD k = if k = 7 then b else mip.getLsbD k := by
  by_cases hk : k = 7
  · subst hk
    rw [if_pos rfl]
    exact mtipBit_mipWithTimer mip b
  · have hbit : (0x80#32 : Word).getLsbD k = false := by
      rw [show (0x80#32 : Word) = BitVec.twoPow 32 7 from rfl, BitVec.getLsbD_twoPow]
      simp [Ne.symm hk]
    rw [if_neg hk]
    unfold mipWithTimer
    cases b
    · rw [if_neg Bool.false_ne_true, BitVec.getLsbD_and, BitVec.getLsbD_not, hbit]
      by_cases hlt : k < 32
      · simp [hlt]
      · simp [BitVec.getLsbD_of_ge mip k (Nat.le_of_not_lt hlt)]
    · rw [if_pos rfl, BitVec.getLsbD_or, hbit, Bool.or_false]

theorem getLsbD_timerStage_mip (e : Word) (s : State) {k : Nat} (hk : k ≠ 7) :
    (timerStage e s).mip.getLsbD k = s.mip.getLsbD k := by
  rw [timerStage_mip, getLsbD_mipWithTimer, if_neg hk]

/-- Settles O44: the stage is one update of TIMER, `mip` and SLEEP, and the last two are functions of the match condition. -/
theorem matchSetsPending : Obligations.MatchSetsPending := by
  unfold Obligations.MatchSetsPending
  intro e s
  refine ⟨?_, fun k hk => getLsbD_timerStage_mip e s hk, sleep_iff s e, timerNat_timerStage s e, fun _ => rfl, fun _ => rfl,
    rfl, ?_⟩
  · rw [timerStage_mip, getLsbD_mipWithTimer, if_pos rfl, matchHolds_iff]
  · constructor <;> rfl

/-! ### The condition that holds, and the answer -/

theorem stepWith_of_staysAsleep (hwf : s.params.wf = true) (h : StaysAsleep e s) :
    stepWith e s = .next { timerStage e s with outcome := .sleeping } := by
  have hsleep := (sleep_iff s e).2 h
  rcases stepWith_cases s e with ⟨hbad, -⟩ | ⟨-, ⟨-, hstep⟩ | ⟨hawake, -⟩ | ⟨hawake, -⟩⟩
  · simp [hwf] at hbad
  · exact hstep
  · simp [hsleep] at hawake
  · simp [hsleep] at hawake

/-- A match wakes the hart in the same step (rule R343). -/
theorem InterruptDue.not_staysAsleep (h : InterruptDue e s) : ¬StaysAsleep e s := fun hsleep => hsleep.2 h.1

theorem timerStage_awake (h : ¬StaysAsleep e s) : (timerStage e s).sleep = false :=
  Bool.eq_false_iff.2 (mt (sleep_iff s e).1 h)

theorem stepWith_of_interruptDue (hwf : s.params.wf = true) (h : InterruptDue e s) :
    stepWith e s = .next (takeInterrupt (timerStage e s)) := by
  have hawake := timerStage_awake h.not_staysAsleep
  have hready := (interruptReady_iff s e).2 h
  rcases stepWith_cases s e with ⟨hbad, -⟩ | ⟨-, ⟨hsleep, -⟩ | ⟨-, -, hstep⟩ | ⟨-, hshut, -⟩⟩
  · simp [hwf] at hbad
  · simp [hawake] at hsleep
  · exact hstep
  · simp [hready] at hshut

theorem stepWith_of_attempts (h : Attempts e s) : stepWith e s = attempt exec (countCycle (timerStage e s)) := by
  obtain ⟨hwf, hawake, hshut⟩ := h
  rcases stepWith_cases s e with ⟨hbad, -⟩ | ⟨-, ⟨hsleep, -⟩ | ⟨-, hready, -⟩ | ⟨-, -, hstep⟩⟩
  · simp [hwf] at hbad
  · exact absurd ((sleep_iff s e).1 hsleep) hawake
  · exact absurd ((interruptReady_iff s e).1 hready) hshut
  · exact hstep

/-- Fetch reads the pc and the buffer only, which no stage before it moves. -/
theorem fetch_counted (e : Word) (s : State) : fetch (countCycle (timerStage e s)) = fetch s := rfl

/-- An attempt whose fetch faults (rule R145; decision D15). -/
theorem stepWith_of_fetch_error (h : Attempts e s) {x : Exception} (hx : fetch s = .error x) :
    stepWith e s = raise x s.pc (countCycle (timerStage e s)) := by
  rw [stepWith_of_attempts h, attempt, fetch_counted, hx]
  rfl

/-- An attempt at a fetchable pc executes the instruction there (rules R140, R146). -/
theorem stepWith_of_decodes (h : Attempts e s) (hfetch : Fetchable s) {i : Instr}
    (hi : decodeBytes (pcBytes s) = .ok (i, [])) : stepWith e s = exec i (countCycle (timerStage e s)) := by
  rw [decodeBytes_pcBytes] at hi
  cases hi
  rw [stepWith_of_attempts h, attempt, fetch_counted, fetch_of_fetchable s hfetch]

/-- Settles O42. -/
theorem stepRunsDecodedInstruction : Obligations.StepRunsDecodedInstruction := by
  unfold Obligations.StepRunsDecodedInstruction
  refine ⟨fun e s i h hfetch hi => stepWith_of_decodes h hfetch hi, fun e rest s hqueue => ?_, fun s hqueue => ?_⟩
  · rw [step_eq, drawElapsed, hqueue]
  · rw [step_eq, drawElapsed, hqueue]

/-! ### Interrupt and fetch exceptions -/

theorem cycleNat_eq_of_halves (hl : t.cyclel = s.cyclel) (hh : t.cycleh = s.cycleh) : cycleNat t = cycleNat s := by
  rw [cycleNat, cycleNat, hl, hh]

theorem matchNat_eq_of_halves (hl : t.timermatchl = s.timermatchl) (hh : t.timermatchh = s.timermatchh) :
    matchNat t = matchNat s := by
  rw [matchNat, matchNat, hl, hh]

/-- Settles O46: trap entry on the state the timer stage leaves; MIE goes to MPIE and is cleared. -/
theorem timerInterruptTaken : Obligations.TimerInterruptTaken := by
  unfold Obligations.TimerInterruptTaken
  intro e s hwf hdue
  have ⟨_, _, hmie⟩ := hdue
  refine ⟨_, stepWith_of_interruptDue hwf hdue, traps_enterTrap (timerStage e s) timerInterruptCause 0#32,
    takeInterrupt_mepc _, takeInterrupt_pc _, ?_, ?_, cycleNat_eq_of_halves rfl rfl,
    (takeInterrupt_sleep _).trans (timerStage_awake hdue.not_staysAsleep)⟩
  · rw [takeInterrupt_mstatus, getLsbD_trapStatus, timerStage_mstatus, hmie]
    rfl
  · rw [takeInterrupt_mstatus, getLsbD_trapStatus]
    simp

/-- A fetch below the end of the buffer faults only by its alignment (rules R68, R145). -/
theorem fetch_misaligned (hin : (s.pc - s.params.memBase).toNat < s.params.memLen.toNat)
    (halign : (s.pc - s.params.memBase).toNat % 4 ≠ 0) : fetch s = .error .instructionAddressMisaligned := by
  rcases fetch_cases s with ⟨hout, -⟩ | ⟨-, -, h⟩ | ⟨-, haligned, -⟩
  · exact absurd hin (Nat.not_lt.2 hout)
  · exact h
  · rw [← BitVec.toNat_inj, BitVec.extractLsb'_toNat] at haligned
    exact absurd (by simpa [State.off] using haligned) halign

theorem fetch_outside (hout : s.params.memLen.toNat ≤ (s.pc - s.params.memBase).toNat) :
    fetch s = .error .instructionAccessFault := if_pos hout

/-- The base is a multiple of 4, so the alignment of the pc is that of its offset (rule R12). -/
theorem offset_mod_four (hwf : s.params.wf = true) : (s.pc - s.params.memBase).toNat % 4 = s.pc.toNat % 4 := by
  obtain ⟨hbase, -⟩ := (params_wf_iff _).1 hwf
  have hlt := s.params.memBase.isLt
  rw [BitVec.toNat_sub]
  omega

/-- Settles O47: the range test comes first, so a misaligned pc outside the buffer is an access fault too. -/
theorem fetchFaults : Obligations.FetchFaults := by
  unfold Obligations.FetchFaults
  intro e s h
  have ⟨hwf, _⟩ := h
  refine ⟨fun hout => ?_, fun hin halign => ?_⟩
  · exact ⟨_, stepWith_of_fetch_error h (fetch_outside hout), traps_enterTrap _ _ _, rfl⟩
  · rw [← offset_mod_four hwf] at halign
    exact ⟨_, stepWith_of_fetch_error h (fetch_misaligned hin halign), traps_enterTrap _ _ _, rfl⟩

/-! ### Refusal -/

theorem stepWith_refuses_iff : (∃ r, stepWith e s = .refused r) ↔ s.params.wf = false := by
  refine ⟨fun ⟨r, hr⟩ => Bool.eq_false_iff.2 fun hwf => ?_, fun hbad => ?_⟩
  · obtain ⟨t, ht⟩ := stepWith_answers e hwf
    cases ht.symm.trans hr
  · rcases stepWith_cases s e with ⟨-, h⟩ | ⟨hwf, -⟩
    · exact ⟨_, h⟩
    · simp [hbad] at hwf

/-- Settles O50: a step with good parameters is answered, and one without is refused before anything else. -/
theorem refusesOnlyParameters : Obligations.RefusesOnlyParameters := by
  unfold Obligations.RefusesOnlyParameters
  refine ⟨fun e s => stepWith_refuses_iff, fun e s => ⟨fun h => stepWith_refuses_iff.1 ⟨_, h⟩, fun hbad => ?_⟩,
    fun e s t => params_of_stepWith, fun s => params_wf_iff s.params⟩
  rcases stepWith_cases s e with ⟨-, h⟩ | ⟨hwf, -⟩
  · exact h
  · simp [hbad] at hwf

end Sys2Proof.Machine

/-! ## What any instruction and any step changes

All of this is read off the ways an instruction ends (`ExecShape`) and the ways a step goes. -/

namespace Sys2Proof.Machine

variable {s t : State} {i : Instr}

/-! ### Early exits and trap return, as updates -/

theorem eq_of_endEarly {o : StepOutcome} (h : endEarly o s = .next t) :
    ∃ c : Dword, t = { s.setCycle c with pc := s.pc + 4#32, outcome := o } := by
  rw [endEarly_eq] at h
  cases hparam : s.params.cycleOnEarlyExit <;> rw [hparam] at h <;> cases h
  · exact ⟨_, rfl⟩
  · exact ⟨s.cycle, by rw [State.setCycle_cycle]; rfl⟩

theorem eq_of_returnFromTrap (h : returnFromTrap s = .next t) :
    t = { s with
      mstatus := mretStatus s.mstatus s.priv
      priv := mppField s.mstatus
      pc := s.mepc
      outcome := .continued } := by
  cases h
  rfl

/-! ### Registers -/

theorem reg_setReg_of_not_destination {rd q : RegIdx} (v : Word) (h : destination i = some rd ∨ rd = 0#5)
    (hq : destination i ≠ some q) : (s.setReg rd v).reg q = s.reg q := by
  rw [State.reg_setReg]
  by_cases hzero : q = 0#5
  · rw [if_pos hzero, hzero, State.reg_zero]
  · have hne : q ≠ rd := by
      rintro rfl
      exact h.elim hq hzero
    rw [if_neg hzero, if_neg hne]

/-- No register but the destination changes, however the instruction ends. -/
theorem ExecShape.reg (h : ExecShape i s t) {q : RegIdx} (hq : destination i ≠ some q) : t.reg q = s.reg q := by
  cases h with
  | commit rd v hd => exact reg_setReg_of_not_destination v hd hq
  | csr rd csr v hd =>
    exact (reg_setReg_of_not_destination (s := s.csrWrite csr v) _ (.inl hd) hq).trans (State.reg_csrWrite s csr v q)
  | store rd v a n m hd => exact reg_setReg_of_not_destination v hd hq
  | reserve rd a v hd => exact reg_setReg_of_not_destination v (.inl hd) hq
  | setMatch => rfl
  | early o m z _ _ ht =>
    obtain ⟨c, rfl⟩ := eq_of_endEarly ht
    rfl
  | trap => rfl
  | mret _ _ ht =>
    cases eq_of_returnFromTrap ht
    rfl

/-- Settles O55: a step that is no execution writes no register, and the stages before the execution write none. -/
theorem onlyDestinationChanges : Obligations.OnlyDestinationChanges := by
  unfold Obligations.OnlyDestinationChanges
  refine ⟨State.reg_zero, fun i s t h q hq => (shape_of_exec h).reg hq, fun e s t q h hchanged => ?_⟩
  rcases shape_of_stepWith h with ⟨-, rfl⟩ | ⟨-, -, rfl⟩ | ⟨-, x, -, rfl⟩ | ⟨hattempts, hfetch, hdecode, hexec⟩
  · exact absurd rfl hchanged
  · exact absurd rfl hchanged
  · exact absurd rfl hchanged
  · refine ⟨hattempts, hfetch, _, hdecode, by_contra fun hq => hchanged ?_⟩
    exact (shape_of_exec hexec).reg hq

/-! ### Commit or trap -/

theorem IsStoreInstr.nextPc {rs2 rs1 : RegIdx} {imm : BitVec 12} (h : IsStoreInstr i rs2 rs1 imm) (s : State) :
    nextPc s i = s.pc + 4#32 := by
  rcases h with rfl | rfl | rfl | ⟨f, rfl⟩ <;> rfl

/-- Settles O56: of the ways an instruction ends one is trap entry, and of the others only that of a CSR instruction writes a
trap word. -/
theorem commitsOrTraps : Obligations.CommitsOrTraps := by
  unfold Obligations.CommitsOrTraps
  intro i s t h
  cases shape_of_exec h with
  | commit rd v => exact .inl ⟨rfl, .inl ⟨rfl, rfl, rfl⟩⟩
  | csr rd csr v _ hcsr hpc => exact .inl ⟨hpc.symm, .inr hcsr⟩
  | store rd v a n m _ _ _ _ _ hpc => exact .inl ⟨hpc.symm, .inl ⟨rfl, rfl, rfl⟩⟩
  | reserve rd a v _ hi =>
    obtain ⟨rs1, aq, rl, rfl⟩ := hi
    exact .inl ⟨rfl, .inl ⟨rfl, rfl, rfl⟩⟩
  | setMatch rs2 rs1 imm lo hi hstore => exact .inl ⟨(hstore.nextPc s).symm, .inl ⟨rfl, rfl, rfl⟩⟩
  | early o m z hearly _ ht =>
    obtain ⟨c, rfl⟩ := eq_of_endEarly ht
    have hpc : nextPc s i = s.pc + 4#32 := by
      rcases hearly with ⟨rfl, -, -⟩ | ⟨-, -, rs2, rs1, imm, hstore, -, -⟩
      · rfl
      · exact hstore.nextPc s
    exact .inl ⟨hpc.symm, .inl ⟨rfl, rfl, rfl⟩⟩
  | trap cause tval => exact .inr ⟨cause, tval, traps_enterTrap s cause tval⟩
  | mret hi _ ht =>
    subst hi
    cases eq_of_returnFromTrap ht
    exact .inl ⟨rfl, .inl ⟨rfl, rfl, rfl⟩⟩

/-! ### Memory -/

/-- Memory is as before, or written at the bytes of the instruction's range. -/
theorem ExecShape.mem (h : ExecShape i s t) :
    t.mem = s.mem ∨ ∃ a n, storeRange s i = some (a, n) ∧ WrittenAt s.mem t.mem a n := by
  cases h with
  | commit => exact .inl rfl
  | csr rd csr v => exact .inl (State.csrWrite_mem s csr v)
  | store rd v a n m _ hrange _ _ hm => exact .inr ⟨a, n, hrange, hm⟩
  | reserve => exact .inl rfl
  | setMatch => exact .inl rfl
  | early o m z _ _ ht =>
    obtain ⟨c, rfl⟩ := eq_of_endEarly ht
    exact .inl rfl
  | trap => exact .inl rfl
  | mret _ _ ht =>
    cases eq_of_returnFromTrap ht
    exact .inl rfl

/-- Settles O57: the bytes written are those of the instruction's one range. -/
theorem memoryFrame : Obligations.MemoryFrame := by
  unfold Obligations.MemoryFrame
  intro i s t h
  rcases (shape_of_exec h).mem with hsame | ⟨a, n, hrange, hwritten⟩
  · exact ⟨fun _ _ _ b _ => by rw [hsame], fun _ b => by rw [hsame]⟩
  · refine ⟨fun a' n' hrange' b hb => ?_, fun hnone => ?_⟩
    · cases hrange.symm.trans hrange'
      exact hwritten.frame b hb
    · cases hrange.symm.trans hnone

/-! ### System words -/

/-- The writers of MATCH, of the CSR words no trap writes, of RES, PRIV and SLEEP. -/
structure WordsKept (i : Instr) (s t : State) : Prop where
  timermatch : matchNat t = matchNat s ∨ ∃ rs2 rs1 imm, IsStoreInstr i rs2 rs1 imm
  csrs : (t.mscratch = s.mscratch ∧ t.mtvec = s.mtvec ∧ t.mie = s.mie ∧ t.mip = s.mip) ∨ IsCsrInstr i
  res : t.res = s.res ∨ ∃ rd rs1 aq rl, i = .lrW rd rs1 aq rl
  priv : t.priv = s.priv ∨ i = .mret ∨ t.priv = 3#2
  sleep : t.sleep = s.sleep ∨ i = .wfi

/-- A way to end that writes none of these words. -/
theorem WordsKept.of_same (hl : t.timermatchl = s.timermatchl) (hh : t.timermatchh = s.timermatchh)
    (hcsrs : t.mscratch = s.mscratch ∧ t.mtvec = s.mtvec ∧ t.mie = s.mie ∧ t.mip = s.mip) (hres : t.res = s.res)
    (hpriv : t.priv = s.priv) (hsleep : t.sleep = s.sleep) : WordsKept i s t :=
  ⟨.inl (matchNat_eq_of_halves hl hh), .inl hcsrs, .inl hres, .inl hpriv, .inl hsleep⟩

theorem ExecShape.wordsKept (h : ExecShape i s t) : WordsKept i s t := by
  cases h with
  | commit | store => exact .of_same rfl rfl ⟨rfl, rfl, rfl, rfl⟩ rfl rfl rfl
  | csr rd csr v _ hcsr =>
    have hw : WordsKept i s (s.csrWrite csr v) :=
      ⟨.inl (matchNat_eq_of_halves (State.csrWrite_timermatchl s csr v) (State.csrWrite_timermatchh s csr v)), .inr hcsr,
        .inl (State.csrWrite_res s csr v), .inl (State.csrWrite_priv s csr v), .inl (State.csrWrite_sleep s csr v)⟩
    exact ⟨hw.timermatch, hw.csrs, hw.res, hw.priv, hw.sleep⟩
  | reserve rd a v _ hi =>
    obtain ⟨rs1, aq, rl, rfl⟩ := hi
    exact ⟨.inl rfl, .inl ⟨rfl, rfl, rfl, rfl⟩, .inr ⟨_, _, _, _, rfl⟩, .inl rfl, .inl rfl⟩
  | setMatch rs2 rs1 imm lo hi hstore =>
    exact ⟨.inr ⟨rs2, rs1, imm, hstore⟩, .inl ⟨rfl, rfl, rfl, rfl⟩, .inl rfl, .inl rfl, .inl rfl⟩
  | early o m z hearly _ ht =>
    obtain ⟨c, rfl⟩ := eq_of_endEarly ht
    have hsleep : z = s.sleep ∨ i = .wfi := hearly.elim (fun h => .inr h.1) fun h => .inl h.2.1
    exact ⟨.inl rfl, .inl ⟨rfl, rfl, rfl, rfl⟩, .inl rfl, .inl rfl, hsleep⟩
  | trap => exact ⟨.inl rfl, .inl ⟨rfl, rfl, rfl, rfl⟩, .inl rfl, .inr (.inr rfl), .inl rfl⟩
  | mret hi _ ht =>
    cases eq_of_returnFromTrap ht
    exact ⟨.inl rfl, .inl ⟨rfl, rfl, rfl, rfl⟩, .inl rfl, .inr (.inl hi), .inl rfl⟩

/-- Settles O58: the writers, word by word. -/
theorem systemWordsHaveOneWriter : Obligations.SystemWordsHaveOneWriter := by
  unfold Obligations.SystemWordsHaveOneWriter
  intro i s t h
  have hwords := (shape_of_exec h).wordsKept
  have htimer : timerNat t = timerNat s := by rw [← timer_toNat, timer_of_exec h, timer_toNat]
  refine ⟨⟨htimer, params_of_exec h⟩, hwords.timermatch.resolve_left, fun hchanged => hwords.csrs.resolve_left ?_,
    hwords.res.resolve_left, hwords.priv.resolve_left, hwords.sleep.resolve_left⟩
  rintro ⟨hmscratch, hmtvec, hmie, hmip⟩
  exact hchanged.elim (· hmscratch) (·.elim (· hmtvec) (·.elim (· hmie) (· hmip)))

end Sys2Proof.Machine

/-! ## Sleep, outcomes and the cycle counter -/

namespace Sys2Proof.Machine

variable {s t : State} {i : Instr} {e : Word}

/-! ### The sleep gate -/

/-- A hart asleep after a step was left asleep by the gate, or the step executed `WFI` (rule R343). -/
theorem sleep_of_stepWith (h : stepWith e s = .next t) (hsleep : t.sleep = true) :
    StaysAsleep e s ∨ (Attempts e s ∧ Fetchable s ∧ decodeBytes (pcBytes s) = .ok (.wfi, [])) := by
  refine or_iff_not_imp_left.2 fun hawake => ?_
  have hstage := timerStage_awake hawake
  rcases shape_of_stepWith h with ⟨hasleep, -⟩ | ⟨-, -, rfl⟩ | ⟨-, x, -, rfl⟩ | ⟨hattempts, hfetch, hdecode, hexec⟩
  · exact absurd hasleep hawake
  · exact absurd (hsleep.symm.trans hstage) (by decide)
  · exact absurd (hsleep.symm.trans hstage) (by decide)
  · rcases (shape_of_exec hexec).wordsKept.sleep with hsame | hwfi
    · exact absurd (hsleep.symm.trans (hsame.trans hstage)) (by decide)
    · exact ⟨hattempts, hfetch, hwfi ▸ hdecode⟩

/-- Settles O45: a closed gate is the timer stage alone; an open one leaves the hart awake but for `WFI`. -/
theorem sleepGate : Obligations.SleepGate := by
  unfold Obligations.SleepGate
  refine ⟨fun e s hwf hasleep => ?_, fun e s t h hsleep => sleep_of_stepWith h hsleep, fun e s t h hsleep => ?_⟩
  · refine ⟨_, stepWith_of_staysAsleep hwf hasleep, rfl, rfl, fun _ => rfl, fun _ => rfl, timerNat_timerStage s e,
      fun k hk => getLsbD_timerStage_mip e s hk, ?_⟩
    have hstage : (timerStage e s).sleep = s.sleep := ((sleep_iff s e).2 hasleep).trans hasleep.1.symm
    exact { Kept.refl (timerStage e s) with sleep := hstage }
  · refine or_iff_not_imp_right.2 fun hnomatch => ?_
    have hasleep : StaysAsleep e s := ⟨hsleep, hnomatch⟩
    rcases shape_of_stepWith h with ⟨-, rfl⟩ | ⟨hawake, -⟩ | ⟨⟨-, hawake, -⟩, -⟩ | ⟨⟨-, hawake, -⟩, -⟩
    · exact ⟨(sleep_iff s e).2 hasleep, rfl⟩
    · exact absurd hasleep hawake
    · exact absurd hasleep hawake
    · exact absurd hasleep hawake

/-! ### Outcomes -/

/-- An instruction goes on and leaves CYCLE alone, or it takes an early exit (rule R150). -/
theorem ExecShape.outcome (h : ExecShape i s t) :
    (t.outcome = .continued ∧ cycleNat t = cycleNat s) ∨
      ∃ o m z, endEarly o { s with mstatus := m, sleep := z } = .next t ∧
        ((i = .wfi ∧ o = .sleeping) ∨ ∃ rs2 rs1 imm, IsStoreInstr i rs2 rs1 imm ∧
          displaced (s.reg rs1) imm = 0x11100000#32 ∧ o = .shutdown (s.reg rs2)) := by
  cases h with
  | commit | store | reserve | setMatch | trap => exact .inl ⟨rfl, cycleNat_eq_of_halves rfl rfl⟩
  | csr rd csr v =>
    exact .inl ⟨rfl, cycleNat_eq_of_halves (State.csrWrite_cyclel s csr v) (State.csrWrite_cycleh s csr v)⟩
  | early o m z hearly _ ht =>
    refine .inr ⟨o, m, z, ht, ?_⟩
    rcases hearly with ⟨hi, ho, -⟩ | ⟨-, -, hstore⟩
    · exact .inl ⟨hi, ho⟩
    · exact .inr hstore
  | mret _ _ ht =>
    cases eq_of_returnFromTrap ht
    exact .inl ⟨rfl, cycleNat_eq_of_halves rfl rfl⟩

/-- What an early exit in a step that has counted leaves in CYCLE (decision D13). -/
theorem cycleNat_of_endEarly_counted {u : State} {o : StepOutcome} {m : Word} {z : Bool}
    (h : endEarly o { countCycle u with mstatus := m, sleep := z } = .next t) :
    t.outcome = o ∧ cycleNat t = if u.params.cycleOnEarlyExit then (cycleNat u + 1) % 2 ^ 64 else cycleNat u := by
  rw [endEarly_counted] at h
  cases h
  refine ⟨rfl, ?_⟩
  cases u.params.cycleOnEarlyExit
  · rw [if_neg Bool.false_ne_true, if_neg Bool.false_ne_true]
    exact cycleNat_eq_of_halves rfl rfl
  · rw [if_pos rfl, if_pos rfl, ← cycleNat_countCycle]
    exact cycleNat_eq_of_halves rfl rfl

/-- Settles O48: the ways of a step, and of the instruction where it reaches one. -/
theorem outcomeByPath : Obligations.OutcomeByPath := by
  unfold Obligations.OutcomeByPath
  intro e s t h
  have hcounted : cycleNat (countCycle (timerStage e s)) = (cycleNat s + 1) % 2 ^ 64 := cycleNat_countCycle _
  rcases shape_of_stepWith h with ⟨hasleep, rfl⟩ | ⟨hawake, hdue, rfl⟩ | ⟨hattempts, x, -, rfl⟩ |
    ⟨hattempts, hfetch, hdecode, hexec⟩
  · exact .inl ⟨hasleep, rfl, cycleNat_eq_of_halves rfl rfl⟩
  · exact .inr (.inl ⟨hawake, hdue, rfl, cycleNat_eq_of_halves rfl rfl⟩)
  · exact .inr (.inr (.inl ⟨hattempts, rfl, hcounted⟩))
  · rcases (shape_of_exec hexec).outcome with ⟨ho, hcycle⟩ | ⟨o, m, z, hend, hwhich⟩
    · exact .inr (.inr (.inl ⟨hattempts, ho, hcycle.trans hcounted⟩))
    · obtain ⟨ho, hcycle⟩ := cycleNat_of_endEarly_counted hend
      rcases hwhich with ⟨hi, hsleeping⟩ | ⟨rs2, rs1, imm, hstore, haddr, hshutdown⟩
      · exact .inr (.inr (.inr (.inl ⟨hattempts, hfetch, hi ▸ hdecode, ho.trans hsleeping, hcycle⟩)))
      · exact .inr (.inr (.inr (.inr ⟨hattempts, hfetch,
          ⟨_, rs2, rs1, imm, hdecode, hstore, haddr, ho.trans hshutdown⟩, hcycle⟩)))

/-! ### Reading the cycle counter -/

theorem cyclel_toNat (s : State) : s.cyclel.toNat = cycleNat s % 2 ^ 32 := by
  unfold cycleNat
  omega

/-- Settles O49: the count is taken before the instruction executes, and a write to this CSR is ignored. -/
theorem cycleReadIsCounted : Obligations.CycleReadIsCounted := by
  unfold Obligations.CycleReadIsCounted
  intro e s t rd hattempts hfetch hrd hdecode ht
  rw [stepWith_of_decodes hattempts hfetch hdecode, exec_csrrs, csrAccess_eq,
    csrWrite_unwritable _ _ (by decide : 0xC00#12 ∉ writableCsrs)] at ht
  cases ht
  have hcounted : cycleNat (countCycle (timerStage e s)) = (cycleNat s + 1) % 2 ^ 64 := cycleNat_countCycle _
  obtain ⟨-, hread, -⟩ := regsAre_setReg (countCycle (timerStage e s)) rd (countCycle (timerStage e s)).cyclel
  refine ⟨?_, hcounted⟩
  refine (congrArg BitVec.toNat (hread hrd)).trans ?_
  rw [cyclel_toNat, hcounted]
  omega

/-! ### The state after reset -/

/-- Settles O52. -/
theorem resetState : Obligations.ResetState := by
  unfold Obligations.ResetState
  refine ⟨fun q => ?_, rfl, by decide, by decide, by decide, by decide, fun n hn => ?_, fun _ => rfl, by decide, ?_⟩
  · rw [State.reg]
    split
    · rfl
    · simp [State.reset]
  · unfold State.csrRead
    split <;> simp_all [State.reset]
  · unfold Fetchable
    decide

/-! ## Runs -/

/-- The state with other values in the host's input. -/
def State.withInput (s : State) (queue : List Word) (draws : Nat) : State :=
  { s with elapsedQueue := queue, elapsedDraws := draws }

/-- A step takes its `elapsed` from the host, and that leaves every other word (log 3). -/
theorem step_cases (s : State) : ∃ e queue draws, step s = stepWith e (s.withInput queue draws) := by
  rw [step_eq]
  rcases drawElapsed_cases s with ⟨e, rest, -, h⟩ | ⟨-, h⟩ <;> rw [h]
  · exact ⟨e, rest, s.elapsedDraws, rfl⟩
  · exact ⟨_, s.elapsedQueue, s.elapsedDraws + 1, rfl⟩

/-! ### A hart that sleeps for ever -/

/-- What a sleeping hart keeps from one step to the next. -/
structure Sleeps (s t : State) : Prop where
  params : t.params = s.params
  sleep : t.sleep = true
  pc : t.pc = s.pc
  regs : t.regs = s.regs
  mem : t.mem = s.mem
  cyclel : t.cyclel = s.cyclel
  cycleh : t.cycleh = s.cycleh
  timermatchl : t.timermatchl = s.timermatchl
  timermatchh : t.timermatchh = s.timermatchh
  mstatus : t.mstatus = s.mstatus
  mepc : t.mepc = s.mepc
  res : t.res = s.res

theorem Sleeps.trans {u : State} (h : Sleeps s t) (h' : Sleeps t u) : Sleeps s u where
  params := h'.params.trans h.params
  sleep := h'.sleep
  pc := h'.pc.trans h.pc
  regs := h'.regs.trans h.regs
  mem := h'.mem.trans h.mem
  cyclel := h'.cyclel.trans h.cyclel
  cycleh := h'.cycleh.trans h.cycleh
  timermatchl := h'.timermatchl.trans h.timermatchl
  timermatchh := h'.timermatchh.trans h.timermatchh
  mstatus := h'.mstatus.trans h.mstatus
  mepc := h'.mepc.trans h.mepc
  res := h'.res.trans h.res

theorem Sleeps.matchNat (h : Sleeps s t) : matchNat t = matchNat s :=
  matchNat_eq_of_halves h.timermatchl h.timermatchh

theorem Sleeps.reg (h : Sleeps s t) (q : RegIdx) : t.reg q = s.reg q := by
  rw [State.reg, h.regs, State.reg]

/-- With MATCH 0 no `elapsed` wakes a sleeping hart (rules R296 (b), R342). -/
theorem step_sleeps (hwf : s.params.wf = true) (hsleep : s.sleep = true) (hmatch : matchNat s = 0) :
    ∃ t, step s = .next t ∧ Sleeps s t ∧ t.outcome = .sleeping := by
  obtain ⟨e, queue, draws, hstep⟩ := step_cases s
  have hmatch' : matchNat (s.withInput queue draws) = 0 :=
    (matchNat_eq_of_halves rfl rfl).trans hmatch
  have hasleep : StaysAsleep e (s.withInput queue draws) :=
    ⟨hsleep, fun hholds => hholds.1 hmatch'⟩
  have hstage : (timerStage e (s.withInput queue draws)).sleep = true :=
    (sleep_iff (s.withInput queue draws) e).2 hasleep
  exact ⟨_, hstep.trans (stepWith_of_staysAsleep hwf hasleep),
    ⟨rfl, hstage, rfl, rfl, rfl, rfl, rfl, rfl, rfl, rfl, rfl, rfl⟩, rfl⟩

theorem run_sleeps (k : Nat) (hwf : s.params.wf = true) (hsleep : s.sleep = true) (hmatch : matchNat s = 0) :
    ∃ t : State, core.run k s = .next t ∧ Sleeps s t ∧ (0 < k → t.outcome = .sleeping) := by
  induction k generalizing s with
  | zero => exact ⟨s, run_zero s, ⟨rfl, hsleep, rfl, rfl, rfl, rfl, rfl, rfl, rfl, rfl, rfl, rfl⟩, fun h => absurd h (Nat.lt_irrefl 0)⟩
  | succ k ih =>
    obtain ⟨u, hu, hsu, hou⟩ := step_sleeps hwf hsleep hmatch
    obtain ⟨t, ht, hut, hot⟩ := ih (hsu.params ▸ hwf) hsu.sleep (hsu.matchNat.trans hmatch)
    refine ⟨t, (run_succ hu).trans ht, hsu.trans hut, fun _ => ?_⟩
    rcases Nat.eq_zero_or_pos k with rfl | hk
    · cases (run_zero u).symm.trans ht
      exact hou
    · exact hot hk

/-- Settles O59, by induction on the number of steps. -/
theorem sleepsForeverWithoutMatch : Obligations.SleepsForeverWithoutMatch := by
  unfold Obligations.SleepsForeverWithoutMatch
  intro k s hwf hsleep hmatch
  obtain ⟨t, ht, hst, ho⟩ := run_sleeps k hwf hsleep hmatch
  exact ⟨t, ht, hst.sleep, ho, hst.pc, hst.reg, fun b => by rw [hst.mem],
    cycleNat_eq_of_halves hst.cyclel hst.cycleh, hst.matchNat.trans hmatch, hst.mstatus, hst.mepc, hst.res⟩

end Sys2Proof.Machine

/-! ## The fault loop at a trap vector that cannot be fetched -/

namespace Sys2Proof.Machine

variable {s t : State}

/-- An awake hart with MIE 0 at a trap vector that cannot be fetched (decision D22). -/
structure AtBadVector (s : State) : Prop where
  wf : s.params.wf = true
  awake : s.sleep = false
  masked : s.mstatus.getLsbD 3 = false
  pc : s.pc = s.mtvec
  unfetchable : ¬Fetchable s

/-- The cause of a fetch exception at `a`: misaligned inside the buffer, else access fault (rule R145). -/
def fetchCause (p : Config.Params) (a : Word) : Word :=
  if (a - p.memBase).toNat < p.memLen.toNat then 0#32 else 1#32

theorem fetch_of_not_fetchable (h : ¬Fetchable s) :
    ∃ x, fetch s = .error x ∧ x.code = fetchCause s.params s.pc := by
  by_cases hin : (s.pc - s.params.memBase).toNat < s.params.memLen.toNat
  · exact ⟨_, fetch_misaligned hin fun halign => h ⟨hin, halign⟩, (if_pos hin).symm⟩
  · exact ⟨_, fetch_outside (Nat.le_of_not_lt hin), (if_neg hin).symm⟩

theorem AtBadVector.attempts (h : AtBadVector s) (e : Word) (queue : List Word) (draws : Nat) :
    Attempts e (s.withInput queue draws) := by
  refine ⟨h.wf, fun ⟨hasleep, _⟩ => ?_, fun ⟨_, _, hmie⟩ => ?_⟩
  · exact Bool.false_ne_true (h.awake.symm.trans hasleep)
  · exact Bool.false_ne_true (h.masked.symm.trans hmie)

/-- One turn of the loop. -/
structure FaultTurn (s t : State) : Prop where
  params : t.params = s.params
  mtvec : t.mtvec = s.mtvec
  sleep : t.sleep = false
  outcome : t.outcome = .continued
  pc : t.pc = s.mtvec
  mepc : t.mepc = s.mtvec
  mtval : t.mtval = s.mtvec
  mcause : t.mcause = fetchCause s.params s.mtvec
  mstatus : t.mstatus = s.priv.setWidth 32 <<< 11
  priv : t.priv = 3#2
  cycle : cycleNat t = (cycleNat s + 1) % 2 ^ 64
  regs : RegsSame s t
  mem : MemSame s t

theorem trapStatus_of_masked {m : Word} (h : m.getLsbD 3 = false) (p : BitVec 2) :
    trapStatus m p = p.setWidth 32 <<< 11 := by
  rw [trapStatus, mieBit, h]
  exact BitVec.zero_or

theorem step_at_bad_vector (h : AtBadVector s) : ∃ t, step s = .next t ∧ FaultTurn s t := by
  obtain ⟨e, queue, draws, hstep⟩ := step_cases s
  obtain ⟨x, hx, hcode⟩ := fetch_of_not_fetchable h.unfetchable
  have hattempts := h.attempts e queue draws
  have ⟨_, hgate, _⟩ := hattempts
  have hfetch : fetch (s.withInput queue draws) = .error x := hx
  have hawake : (timerStage e (s.withInput queue draws)).sleep = false := timerStage_awake hgate
  have hcycle : cycleNat (countCycle (timerStage e (s.withInput queue draws))) = (cycleNat s + 1) % 2 ^ 64 :=
    (cycleNat_countCycle _).trans (congrArg (fun n => (n + 1) % 2 ^ 64) (cycleNat_eq_of_halves rfl rfl))
  refine ⟨_, hstep.trans (stepWith_of_fetch_error hattempts hfetch), ?_⟩
  exact {
    params := rfl
    mtvec := rfl
    sleep := hawake
    outcome := rfl
    pc := rfl
    mepc := h.pc
    mtval := h.pc
    mcause := h.pc ▸ hcode
    mstatus := trapStatus_of_masked h.masked s.priv
    priv := rfl
    cycle := hcycle
    regs := fun _ => rfl
    mem := fun _ => rfl }

theorem FaultTurn.atBadVector (h : FaultTurn s t) (hs : AtBadVector s) : AtBadVector t where
  wf := h.params ▸ hs.wf
  awake := h.sleep
  masked := by
    rw [h.mstatus, getLsbD_privField]
    rfl
  pc := h.pc.trans h.mtvec.symm
  unfetchable := by
    have hpc : t.pc = s.pc := h.pc.trans hs.pc.symm
    unfold Fetchable
    rw [hpc, h.params]
    exact hs.unfetchable

/-- Settles O60, by induction on the number of turns: the first one leaves PRIV 3, so `mstatus` is 0x1800 from then on. -/
theorem faultLoopNeverEnds : Obligations.FaultLoopNeverEnds := by
  unfold Obligations.FaultLoopNeverEnds
  intro k
  induction k with
  | zero =>
    intro s hwf hawake hmie hpc hbad
    obtain ⟨t, hstep, h⟩ := step_at_bad_vector ⟨hwf, hawake, hmie, hpc, hbad⟩
    exact ⟨t, (run_succ hstep).trans (run_zero t), h.outcome, h.pc, h.mepc, h.mtval, h.mcause, h.mstatus, h.cycle,
      h.regs, h.mem⟩
  | succ k ih =>
    intro s hwf hawake hmie hpc hbad
    have hs : AtBadVector s := ⟨hwf, hawake, hmie, hpc, hbad⟩
    obtain ⟨u, hstep, h⟩ := step_at_bad_vector hs
    have hu := h.atBadVector hs
    obtain ⟨t, hrun, houtcome, htpc, hmepc, hmtval, hmcause, hmstatus, hcycle, hregs, hmem⟩ :=
      ih u hu.wf hu.awake hu.masked hu.pc hu.unfetchable
    rw [h.params, h.mtvec] at hmcause
    rw [h.priv] at hmstatus
    rw [h.cycle] at hcycle
    refine ⟨t, (run_succ hstep).trans hrun, houtcome, htpc.trans h.mtvec, hmepc.trans h.mtvec, hmtval.trans h.mtvec,
      hmcause, ?_, ?_, fun q => (hregs q).trans (h.regs q), fun b => (hmem b).trans (h.mem b)⟩
    · rw [hmstatus, if_neg k.succ_ne_zero]
      exact ite_self _
    · omega

end Sys2Proof.Machine
